-- ==== Sys2Proof/Word.lean ====
section
/-! DEFINITION. The word types of the ports and the form of an identifier (00_scope.md R10, 10_state.md R33). -/

namespace Sys2Proof

/-- One byte of a payload: an unsigned 8-bit value (20_memory.md R40). -/
abbrev Byte := BitVec 8

/-- `u16` (00_scope.md R10). -/
abbrev U16 := BitVec 16

/-- `u24` (00_scope.md R10). -/
abbrev U24 := BitVec 24

/-- `u32` (00_scope.md R10). -/
abbrev U32 := BitVec 32

/-- `i16`, two's complement; its integer is `BitVec.toInt` (00_scope.md R10, 30_encoding.md R67). -/
abbrev I16 := BitVec 16

/-- The 7-bit command word `CW` (30_encoding.md R63). -/
abbrev CommandWord := BitVec 7

/-- The form of an identifier: 11-bit standard (`ext = 0`) or 29-bit extended (`ext = 1`) (10_state.md R33). -/
inductive Form where
  | standard
  | extended
  deriving DecidableEq, Repr

end Sys2Proof
end

