-- ==== Sys2Proof/Syntax.lean ====
section
/-! DEFINITION. The operation forms: one constructor per row of opcode_table.json (30_encoding.md R62). -/

namespace Sys2Proof

/-- An operation, as the command word selects it. The `ext` bit is an operand of CLASSIFY, BUILD and CHECK_ID
(30_encoding.md R63, R65); the operands on the other ports of the request are not part of the command word.
BUILD.UNS is written with a form (R78) and does not read it (42_dispatcher.md R138; log entry 9). -/
inductive Instr where
  /-- ENC_U24 (40_field_transcoder.md R92). -/
  | encU24
  /-- DEC_U24 (40_field_transcoder.md R93). -/
  | decU24
  /-- ENC_TEMP (40_field_transcoder.md R95). -/
  | encTemp
  /-- DEC_TEMP (40_field_transcoder.md R97). -/
  | decTemp
  /-- ENCODE.TLM (41_frame_codec.md R111). -/
  | encodeTlm
  /-- ENCODE.CMD (41_frame_codec.md R112). -/
  | encodeCmd
  /-- ENCODE.UNS (41_frame_codec.md R113). -/
  | encodeUns
  /-- DEC_CMD (41_frame_codec.md R114). -/
  | decCmd
  /-- DEC_TLM (41_frame_codec.md R115). -/
  | decTlm
  /-- CLASSIFY (42_dispatcher.md R131). -/
  | classify (ext : Form)
  /-- BUILD.TLM (42_dispatcher.md R136). -/
  | buildTlm (ext : Form)
  /-- BUILD.CMD (42_dispatcher.md R137). -/
  | buildCmd (ext : Form)
  /-- BUILD.UNS (42_dispatcher.md R138). -/
  | buildUns (ext : Form)
  /-- CHECK_ID (42_dispatcher.md R141). -/
  | checkId (ext : Form)
  deriving DecidableEq, Repr

end Sys2Proof
end

