-- ==== Sys2Proof/Decode.lean ====
section
/-! DEFINITION. Decoding a command word (30_encoding.md R62, R63, R68, R80), the operation table it follows, and the
encoder (R78: ignored bits are assembled as 0). -/

namespace Sys2Proof

/-- The `ext` bit that stands for a form (30_encoding.md R63, R65). -/
def Form.bit : Form → BitVec 1
  | .standard => 0
  | .extended => 1

/-- The form that an `ext` bit stands for. -/
def Form.ofBit (b : BitVec 1) : Form := if b = 1 then .extended else .standard

/-- Field `op`, bits 3:0 (30_encoding.md R63). -/
def cwOp (cw : CommandWord) : BitVec 4 := cw.extractLsb' 0 4

/-- Field `mtag`, bits 5:4 (30_encoding.md R63). -/
def cwMtag (cw : CommandWord) : BitVec 2 := cw.extractLsb' 4 2

/-- Field `ext`, bit 6 (30_encoding.md R63). -/
def cwExt (cw : CommandWord) : Form := Form.ofBit (cw.extractLsb' 6 1)

/-- Why a command word is illegal (30_encoding.md R68). -/
inductive IllegalWord where
  /-- `op` is in 0xA..0xF. -/
  | reservedOp (op : BitVec 4)
  /-- `op` is 0x4 or 0x8 and `mtag` is 3. -/
  | reservedTag (op : BitVec 4)
  deriving DecidableEq, Repr

/-- What a command word decodes to: an operation, or illegal, by name. -/
inductive Decoded where
  | instr (i : Instr)
  | illegal (why : IllegalWord)
  deriving DecidableEq, Repr

/-- The variant of ENCODE that `mtag` selects (30_encoding.md R80 step 3). -/
def decodeEncode (mtag : BitVec 2) : Decoded :=
  match mtag.toNat with
  | 0 => .instr .encodeTlm
  | 1 => .instr .encodeCmd
  | 2 => .instr .encodeUns
  | _ => .illegal (.reservedTag 4)

/-- The variant of BUILD that `mtag` selects (30_encoding.md R80 step 3). -/
def decodeBuild (mtag : BitVec 2) (ext : Form) : Decoded :=
  match mtag.toNat with
  | 0 => .instr (.buildTlm ext)
  | 1 => .instr (.buildCmd ext)
  | 2 => .instr (.buildUns ext)
  | _ => .illegal (.reservedTag 8)

/-- The decoder, total on the 128 command words (30_encoding.md R80). -/
def decode (cw : CommandWord) : Decoded :=
  match (cwOp cw).toNat with
  | 0 => .instr .encU24
  | 1 => .instr .decU24
  | 2 => .instr .encTemp
  | 3 => .instr .decTemp
  | 4 => decodeEncode (cwMtag cw)
  | 5 => .instr .decCmd
  | 6 => .instr .decTlm
  | 7 => .instr (.classify (cwExt cw))
  | 8 => decodeBuild (cwMtag cw) (cwExt cw)
  | 9 => .instr (.checkId (cwExt cw))
  | _ => .illegal (.reservedOp (cwOp cw))

/-- A command word from its three fields, `e mm oooo` (30_encoding.md R63). -/
def cwOf (ext : Form) (mtag : BitVec 2) (op : BitVec 4) : CommandWord := ext.bit ++ mtag ++ op

/-- The command word of an operation, every ignored bit 0 (30_encoding.md R62, R78). -/
def encode : Instr → CommandWord
  | .encU24 => cwOf .standard 0 0x0
  | .decU24 => cwOf .standard 0 0x1
  | .encTemp => cwOf .standard 0 0x2
  | .decTemp => cwOf .standard 0 0x3
  | .encodeTlm => cwOf .standard 0 0x4
  | .encodeCmd => cwOf .standard 1 0x4
  | .encodeUns => cwOf .standard 2 0x4
  | .decCmd => cwOf .standard 0 0x5
  | .decTlm => cwOf .standard 0 0x6
  | .classify ext => cwOf ext 0 0x7
  | .buildTlm ext => cwOf ext 0 0x8
  | .buildCmd ext => cwOf ext 1 0x8
  | .buildUns ext => cwOf ext 2 0x8
  | .checkId ext => cwOf ext 0 0x9

/-- The bits of the command word that the operation keeps: its row's mask (30_encoding.md R62), and `ext` where it is an
operand (R63). Every other bit is ignored (R69). -/
def keptBits : Instr → CommandWord
  | .encU24 => 0x0F
  | .decU24 => 0x0F
  | .encTemp => 0x0F
  | .decTemp => 0x0F
  | .encodeTlm => 0x3F
  | .encodeCmd => 0x3F
  | .encodeUns => 0x3F
  | .decCmd => 0x0F
  | .decTlm => 0x0F
  | .classify _ => 0x4F
  | .buildTlm _ => 0x7F
  | .buildCmd _ => 0x7F
  | .buildUns _ => 0x7F
  | .checkId _ => 0x4F

/-- The mnemonic of an operation, as opcode_table.json spells it (30_encoding.md R62). -/
def mnemonic : Instr → String
  | .encU24 => "ENC_U24"
  | .decU24 => "DEC_U24"
  | .encTemp => "ENC_TEMP"
  | .decTemp => "DEC_TEMP"
  | .encodeTlm => "ENCODE.TLM"
  | .encodeCmd => "ENCODE.CMD"
  | .encodeUns => "ENCODE.UNS"
  | .decCmd => "DEC_CMD"
  | .decTlm => "DEC_TLM"
  | .classify _ => "CLASSIFY"
  | .buildTlm _ => "BUILD.TLM"
  | .buildCmd _ => "BUILD.CMD"
  | .buildUns _ => "BUILD.UNS"
  | .checkId _ => "CHECK_ID"

/-- One row of the operation table: a command word selects it when `cw &&& mask = pattern` (30_encoding.md R62). -/
structure OpRow where
  mnemonic : String
  pattern : CommandWord
  mask : CommandWord
  deriving DecidableEq, Repr

/-- The operation table, row by row (30_encoding.md R62). It is a second transcription of the encoding, from match and
mask; `decode` follows R80, and an obligation says that the two agree on every word. -/
def opcodeTable : List OpRow :=
  [⟨"ENC_U24", 0x00, 0x0F⟩, ⟨"DEC_U24", 0x01, 0x0F⟩, ⟨"ENC_TEMP", 0x02, 0x0F⟩, ⟨"DEC_TEMP", 0x03, 0x0F⟩,
   ⟨"ENCODE.TLM", 0x04, 0x3F⟩, ⟨"ENCODE.CMD", 0x14, 0x3F⟩, ⟨"ENCODE.UNS", 0x24, 0x3F⟩,
   ⟨"DEC_CMD", 0x05, 0x0F⟩, ⟨"DEC_TLM", 0x06, 0x0F⟩, ⟨"CLASSIFY", 0x07, 0x0F⟩,
   ⟨"BUILD.TLM", 0x08, 0x3F⟩, ⟨"BUILD.CMD", 0x18, 0x3F⟩, ⟨"BUILD.UNS", 0x28, 0x3F⟩, ⟨"CHECK_ID", 0x09, 0x0F⟩]

/-- A command word selects a row (30_encoding.md R62). -/
def OpRow.selects (r : OpRow) (cw : CommandWord) : Bool := (cw &&& r.mask) == r.pattern

/-- The operation that a table word of `nbits` bits holds, bits above `nbits` zero. The command word is the low seven
bits: the `CW` port has no eighth wire (30_encoding.md R63, R77; log entry 6). -/
def commandWordOf (nbits w : Nat) : CommandWord := BitVec.ofNat 7 (w % 2 ^ nbits)

/-- What the decoder reads from a table word; `none` where it answers illegal. -/
def decodeTableWord (nbits w : Nat) : Option Instr :=
  match decode (commandWordOf nbits w) with
  | .instr i => some i
  | .illegal _ => none

end Sys2Proof
end

