-- ==== Sys2Proof/Config.lean ====
section
/-! DEFINITION. The configuration inputs of the block and its one open implementation parameter
(00_scope.md R7, 10_state.md R24 to R28). The inputs are driven by the host with each request; the block stores none. -/

namespace Sys2Proof

/-- The two values of `CFG_TEMP_POLICY`: 0 = SATURATE, 1 = REJECT (10_state.md R28). -/
inductive TempPolicy where
  | saturate
  | reject
  deriving DecidableEq, Repr

/-- The record `Cfg` of the four configuration inputs, sampled with each request (10_state.md R24).
There is no default: "the codec defines no default values it privately hard-codes" (R25). -/
structure Cfg where
  /-- `CFG_CMD_ID` (10_state.md R25). -/
  cmdId : U32
  /-- `CFG_TLM_ID` (10_state.md R26). -/
  tlmId : U32
  /-- `CFG_STD_ROUTE`: true routes standard identifiers through the dispatch table (10_state.md R27). -/
  stdRoute : Bool
  /-- `CFG_TEMP_POLICY` (10_state.md R28). -/
  tempPolicy : TempPolicy
  deriving DecidableEq, Repr

/-- `LATENCY`: the finite number of the implementation's time units from a request to its response. OPEN: it has no
value here, and no definition reads it, as no rule depends on it (00_scope.md R7, 70_reset_and_hazards.md R176; log entry 1). -/
opaque Config.latency : Nat

end Sys2Proof
end

