-- ==== Sys2Proof/Machine/Types.lean ====
section
/-! DEFINITION. The values that cross the ports: messages, identifiers, payloads, requests and responses
(10_state.md R29 to R33, R37; 30_encoding.md R60, R70 to R73). -/

namespace Sys2Proof

/-- The command message, a commanded setpoint (10_state.md R29). -/
structure MotorCmd where
  cmdValue : U16
  deriving DecidableEq, Repr

/-- The report message (10_state.md R30). `temp` is the logical temperature, a signed 16-bit value. -/
structure Telemetry where
  status : U24
  position : U16
  current : U16
  temp : I16
  deriving DecidableEq, Repr

/-- "a tagged union over {Telemetry, MotorCmd, Unsupported}" (10_state.md R31). -/
inductive Message where
  | telemetry (t : Telemetry)
  | motorCmd (m : MotorCmd)
  | unsupported
  deriving DecidableEq, Repr

/-- What an identifier selects in the dispatch table (42_dispatcher.md R132). -/
inductive MsgType where
  | noType
  | cmdType
  | tlmType
  deriving DecidableEq, Repr

/-- A payload: the bytes `P[0], P[1], ...` of a CAN frame, at most 8 (00_scope.md R11, 10_state.md R37). -/
abbrev Payload := List Byte

/-- The nine operand ports of a request (30_encoding.md R60). -/
structure Request where
  /-- `CW`, the command word. -/
  cw : CommandWord
  /-- `ID`, the raw identifier. -/
  id : U32
  /-- `LEN`, the number of payload bytes presented. -/
  len : BitVec 4
  /-- `DATA`, eight lanes of payload bytes. -/
  data : BitVec 64
  /-- `STATUS`, status of a Telemetry and the value of ENC_U24. -/
  status : U24
  /-- `POSITION`. -/
  position : U16
  /-- `CURRENT`. -/
  current : U16
  /-- `TEMP`, signed. -/
  temp : I16
  /-- `CMDV`, the value of a MotorCmd. -/
  cmdv : U16
  deriving DecidableEq, Repr

/-- A request as the block takes it: with the configuration inputs sampled at the same instant
(10_state.md R24, 70_reset_and_hazards.md R178). -/
structure Presented where
  cfg : Cfg
  req : Request
  deriving DecidableEq, Repr

/-- The error causes (60_exceptions.md R151). -/
inductive ErrorCode where
  /-- E_LENGTH: the payload is shorter than the selected decoder needs. -/
  | eLength
  /-- E_TEMP_RANGE: the temperature is outside its range under the policy REJECT. -/
  | eTempRange
  /-- E_ID_RANGE: the identifier does not fit its form. -/
  | eIdRange
  /-- E_ILLEGAL: the command word selects no operation. -/
  | eIllegal
  deriving DecidableEq, Repr

/-- The response to one request (30_encoding.md R70, the normative sum type). -/
inductive Response where
  /-- A byte sequence and the saturation flag. -/
  | bytes (q : Payload) (sat : Bool)
  /-- An unsigned 32-bit value. -/
  | u32 (v : U32)
  /-- A signed 16-bit value. -/
  | i16 (v : I16)
  /-- A message. -/
  | msg (m : Message)
  /-- A target identifier paired with an encoding, and the saturation flag. -/
  | frame (ext : Form) (raw : U32) (q : Payload) (sat : Bool)
  /-- The document's None: nothing to transmit. -/
  | noFrame
  /-- The identifier is valid. -/
  | idOk (ext : Form) (raw : U32)
  /-- The operation failed. -/
  | err (code : ErrorCode)
  deriving DecidableEq, Repr

/-- The thirteen response ports (30_encoding.md R71). -/
structure RespPorts where
  st : BitVec 3
  sat : BitVec 1
  rTag : BitVec 2
  rStatus : U24
  rPosition : U16
  rCurrent : U16
  rTemp : I16
  rCmdv : U16
  rVal : U32
  rExt : BitVec 1
  rId : U32
  rLen : BitVec 4
  rData : BitVec 64
  deriving DecidableEq, Repr, Inhabited

end Sys2Proof
end

