-- ==== Sys2Proof/Machine/Operands.lean ====
section
/-! DEFINITION. The fixed parameters (00_scope.md R6), the operands of a request (30_encoding.md R66, R67), the payload
as a byte-addressed object with MemRead and MemWrite (20_memory.md R40 to R47), and the general field primitive with the
descriptors of the two layouts (R50, R51). -/

namespace Sys2Proof.Machine

/-- PAYLOAD_MAX (00_scope.md R6). -/
def payloadMax : Nat := 8

/-- TLM_LEN (00_scope.md R6). -/
def tlmLen : Nat := 8

/-- CMD_LEN (00_scope.md R6). -/
def cmdLen : Nat := 2

/-- TEMP_BIAS (00_scope.md R6). -/
def tempBias : Int := 50

/-- TEMP_MIN (00_scope.md R6). -/
def tempMin : Int := -50

/-- TEMP_MAX (00_scope.md R6). -/
def tempMax : Int := 205

/-- EXT_ID_MAX (00_scope.md R6). -/
def extIdMax : Nat := 0x1FFFFFFF

/-- STD_ID_MAX (00_scope.md R6). -/
def stdIdMax : Nat := 0x7FF

/-- Lane `i` of a 64-bit data port: bits `8i+7:8i` (20_memory.md R41). -/
def lane (data : BitVec 64) (i : Nat) : Byte := data.extractLsb' (8 * i) 8

/-- The eight lanes, lane 0 first (20_memory.md R41). -/
def lanes (data : BitVec 64) : List Byte :=
  [lane data 0, lane data 1, lane data 2, lane data 3, lane data 4, lane data 5, lane data 6, lane data 7]

/-- The effective length `min(LEN, 8)` (30_encoding.md R66). -/
def effLen (len : BitVec 4) : Nat := min len.toNat payloadMax

/-- The payload of a request: lanes `0 .. len - 1`, where `len` is the effective length (20_memory.md R41). -/
def payloadOf (req : Request) : Payload := (lanes req.data).take (effLen req.len)

/-- The logical temperature on the `TEMP` port, `int(TEMP)` (30_encoding.md R67). -/
def logicalTemp (req : Request) : Int := req.temp.toInt

/-- `N(P)`, the payload as one number, byte 0 least significant (20_memory.md R41). -/
def number : Payload → Nat
  | [] => 0
  | b :: rest => b.toNat + 256 * number rest

/-- The `n` low bytes of `v`, least significant first (20_memory.md R42, R47). -/
def leBytes : Nat → Nat → Payload
  | 0, _ => []
  | n + 1, v => BitVec.ofNat 8 v :: leBytes n (v / 256)

/-- `MemRead(off, n)`: the number of the `n` bytes from `off` up (00_scope.md R12; 20_memory.md R46 for the 1 to 3 bytes of
the layouts, R50 for the 4 of a 32-bit field). "Defined only when `off + n <= len(P)`": outside that it has no value (log
entry 10). -/
def memRead (P : Payload) (off n : Nat) : Option Nat :=
  if off + n ≤ P.length then some (number ((P.drop off).take n)) else none

/-- `MemWrite(off, n, v)` on the response payload under construction: the bytes `off .. off + n - 1` become "the `n` low
bytes of `v`, least significant byte first" (00_scope.md R12; 20_memory.md R47, R51). Payloads are built in increasing
offset, so `off` is at most the length built so far. Beyond it the call has no value (log entry 10). -/
def memWrite (Q : Payload) (off n v : Nat) : Option Payload :=
  if off ≤ Q.length then some (Q.take off ++ leBytes n v ++ Q.drop (off + n)) else none

/-- `field_get(P, lsb, w)`: the `w` bits of the payload from payload bit `lsb` up (20_memory.md R50). -/
def fieldGet (P : Payload) (lsb w : Nat) : Option Nat :=
  if 1 ≤ w ∧ w ≤ 32 ∧ lsb + w ≤ 8 * P.length then some (number P / 2 ^ lsb % 2 ^ w) else none

/-- `field_put(Q, lsb, w, v)`: `Q` with the bits `lsb + w - 1 : lsb` of its number replaced by `v` (20_memory.md R51). -/
def fieldPut (Q : Payload) (lsb w v : Nat) : Option Payload :=
  if 1 ≤ w ∧ w ≤ 32 ∧ lsb + w ≤ 8 * Q.length ∧ v < 2 ^ w then
    some (leBytes Q.length
      (number Q % 2 ^ lsb + v * 2 ^ lsb + number Q / 2 ^ (lsb + w) * 2 ^ (lsb + w)))
  else none

/-- A field of one of the two layouts (20_memory.md R51). -/
structure FieldDesc where
  lsb : Nat
  width : Nat
  byteOffset : Nat
  bias : Int
  deriving DecidableEq, Repr

/-- MotorCmd `cmd_value` (20_memory.md R51). -/
def cmdValueField : FieldDesc := { lsb := 0, width := 16, byteOffset := 0, bias := 0 }

/-- Telemetry `status` (20_memory.md R51). -/
def statusField : FieldDesc := { lsb := 0, width := 24, byteOffset := 0, bias := 0 }

/-- Telemetry `position` (20_memory.md R51). -/
def positionField : FieldDesc := { lsb := 24, width := 16, byteOffset := 3, bias := 0 }

/-- Telemetry `current` (20_memory.md R51). -/
def currentField : FieldDesc := { lsb := 40, width := 16, byteOffset := 5, bias := 0 }

/-- Telemetry `temp` (20_memory.md R51). -/
def tempField : FieldDesc := { lsb := 56, width := 8, byteOffset := 7, bias := tempBias }

/-- The logical value of a field of a payload: wire value = logical value + bias (20_memory.md R51). -/
def FieldDesc.logical (d : FieldDesc) (P : Payload) : Option Int :=
  (fieldGet P d.lsb d.width).map (fun wire : Nat => (wire : Int) - d.bias)

end Sys2Proof.Machine
end

