-- ==== Sys2Proof/Machine/Flags.lean ====
section
/-! DEFINITION. The values that play the part of flags, `ST` and `SAT` (10_state.md R23), the message tag
(30_encoding.md R64), and how each response stands on the ports (R71 to R73). -/

namespace Sys2Proof.Machine

/-- The error codes on `ST` (30_encoding.md R72). -/
def errorStatus : ErrorCode → BitVec 3
  | .eLength => 2
  | .eTempRange => 3
  | .eIdRange => 4
  | .eIllegal => 5

/-- The status code `ST` of a response: 0 OK, 1 NONE, else an error code (30_encoding.md R72). -/
def statusOf : Response → BitVec 3
  | .noFrame => 1
  | .err code => errorStatus code
  | .bytes _ _ => 0
  | .u32 _ => 0
  | .i16 _ => 0
  | .msg _ => 0
  | .frame _ _ _ _ => 0
  | .idOk _ _ => 0

/-- The flag `SAT` of a response (10_state.md R23, 30_encoding.md R73). -/
def satOf : Response → Bool
  | .bytes _ sat => sat
  | .frame _ _ _ sat => sat
  | .u32 _ => false
  | .i16 _ => false
  | .msg _ => false
  | .noFrame => false
  | .idOk _ _ => false
  | .err _ => false

/-- One wire from a truth value. -/
def wire (b : Bool) : BitVec 1 := BitVec.ofBool b

/-- The `ext` wire of a form (30_encoding.md R65). -/
def extWire : Form → BitVec 1
  | .standard => 0
  | .extended => 1

/-- The 2-bit message tag (30_encoding.md R64). -/
def tagOf : Message → BitVec 2
  | .telemetry _ => 0
  | .motorCmd _ => 1
  | .unsupported => 2

/-- A payload on a 4-bit length port (20_memory.md R41). -/
def lenPort (q : Payload) : BitVec 4 := BitVec.ofNat 4 q.length

/-- A payload on a 64-bit data port: lane `i` is `q[i]`, lanes at or beyond its length are 0x00 (20_memory.md R41). -/
def dataPort (q : Payload) : BitVec 64 := BitVec.ofNat 64 (number q)

/-- Every response port 0 (30_encoding.md R73: "Every port not named in a row is driven to 0"). -/
def zeroPorts : RespPorts :=
  { st := 0, sat := 0, rTag := 0, rStatus := 0, rPosition := 0, rCurrent := 0, rTemp := 0, rCmdv := 0,
    rVal := 0, rExt := 0, rId := 0, rLen := 0, rData := 0 }

/-- How a message stands on the response ports (30_encoding.md R73). -/
def messagePorts (m : Message) : RespPorts :=
  match m with
  | .telemetry t =>
    { zeroPorts with rTag := tagOf m, rStatus := t.status, rPosition := t.position, rCurrent := t.current, rTemp := t.temp }
  | .motorCmd c => { zeroPorts with rTag := tagOf m, rCmdv := c.cmdValue }
  | .unsupported => { zeroPorts with rTag := tagOf m }

/-- How a response stands on the response ports (30_encoding.md R73). -/
def responsePorts (r : Response) : RespPorts :=
  match r with
  | .bytes q _ => { zeroPorts with st := statusOf r, sat := wire (satOf r), rLen := lenPort q, rData := dataPort q }
  | .u32 v => { zeroPorts with st := statusOf r, rVal := v }
  | .i16 v => { zeroPorts with st := statusOf r, rTemp := v }
  | .msg m => { messagePorts m with st := statusOf r }
  | .frame ext raw q _ =>
    { zeroPorts with st := statusOf r, sat := wire (satOf r), rExt := extWire ext, rId := raw, rLen := lenPort q,
                     rData := dataPort q }
  | .noFrame => { zeroPorts with st := statusOf r }
  | .idOk ext raw => { zeroPorts with st := statusOf r, rExt := extWire ext, rId := raw }
  | .err _ => { zeroPorts with st := statusOf r }

end Sys2Proof.Machine
end

