-- ==== Sys2Proof/Machine/State.lean ====
section
/-! DEFINITION. The machine's state as plain data, the reasons a step can stop, and the state after reset
(10_state.md R20, R36; 70_reset_and_hazards.md R170, R181). -/

namespace Sys2Proof.Machine

/-- The state of the interface. The block itself holds no architectural state (10_state.md R20): nothing in `pending`
or `given` other than the request being answered has any effect on its response. -/
structure State where
  /-- The requests in flight, oldest first: presented and not yet answered, each with the `Cfg` sampled with it
  (10_state.md R24, R36; 70_reset_and_hazards.md R177, R178). -/
  pending : List Presented
  /-- The responses given, oldest first: the result of a run (70_reset_and_hazards.md R181). It is the record a host
  keeps; no operation reads it. DESIGN CHOICE (log entry 3). -/
  given : List Response
  deriving DecidableEq, Repr

/-- The reasons the block stops with a fault: none. "The block never traps, halts, blocks or hangs, and has no undefined
result" (60_exceptions.md R158); an error is a response (R150). -/
inductive Fault where
  deriving DecidableEq, Repr

/-- The reasons a step has no meaning. -/
inductive Refusal where
  /-- Raised by an arm of `exec` whose operation has no meaning yet; no arm raises it. Safe: nothing can be proved of
  the operation's result. -/
  | notModelled (mnemonic : String)
  deriving DecidableEq, Repr

/-- The state right after reset: no request in flight (10_state.md R36), no response given. -/
def State.reset : State := { pending := [], given := [] }

end Sys2Proof.Machine
end

