-- ==== Sys2Proof/Machine/Ops.lean ====
section
/-! DEFINITION. The named operations over State: taking and answering a request, raising an error
(60_exceptions.md R150), what the host does at the interface (70_reset_and_hazards.md R170, R180), and fetching the
command word of the oldest request. -/

namespace Sys2Proof.Machine

/-- What one step of this machine answers. -/
abbrev Result := Host.Outcome State Fault Refusal

/-- `raise <Code>`: "ends the operation; the response is Err(<Code>) and carries no other data"
(00_scope.md R12, 60_exceptions.md R150). Nothing is saved and no control is transferred (R154), so there is no return
from it (R155). -/
def raise (code : ErrorCode) : Response := .err code

/-- Nothing is presented, so nothing happens: "Nothing happens in the block between requests"
(60_exceptions.md R159; log entry 4). -/
def idle (s : State) : Result := .next s

/-- The oldest request in flight is answered by `f` of its `Cfg` and its ports: it leaves the queue and its response is
given after all earlier ones (10_state.md R20, 70_reset_and_hazards.md R177). With no request in flight nothing happens. -/
def answer (f : Cfg → Request → Response) (s : State) : Result :=
  match s.pending with
  | [] => idle s
  | p :: rest => .next { pending := rest, given := s.given ++ [f p.cfg p.req] }

/-- The command word of the oldest request in flight, decoded; `none` when no request is presented
(20_memory.md R55: the command word arrives with its request). -/
def fetch (s : State) : Option Decoded :=
  match s.pending with
  | [] => none
  | p :: _ => some (decode p.req.cw)

/-- The response to a request whose command word is illegal: "nothing else happens, and the next request is executed
normally" (30_encoding.md R68); no operand is looked at (60_exceptions.md R153). -/
def illegalResponse (_cfg : Cfg) (_req : Request) : Response := raise .eIllegal

/-- Answer a request whose command word is illegal (30_encoding.md R68). -/
def execIllegal (s : State) : Result := answer illegalResponse s

/-- The host presents a request together with its `Cfg` (70_reset_and_hazards.md R178, R180). -/
def State.present (s : State) (p : Presented) : State := { s with pending := s.pending ++ [p] }

/-- The host resets the block: "a reset discards every request that has not yet been answered; no response is given for
a discarded request" (70_reset_and_hazards.md R170). Responses already given stand in the host's record. -/
def State.hostReset (s : State) : State := { s with pending := [] }

/-- The response ports at the moment the last response is given; `none` before the first response, since "the model must
not read them before a request has been answered" (10_state.md R36). -/
def State.lastResponsePorts (s : State) : Option RespPorts := s.given.getLast?.map responsePorts

/-- What the response ports hold at a moment, counted by `moment`, when no response is being given: any value
(93_implementation_defined.md U13, 70_reset_and_hazards.md R181). It is a free value with no body: nothing can be proved of
it, and no operation reads it (log entry 5). -/
opaque Config.idlePorts (s : State) (moment : Nat) : RespPorts

/-- Every operand port 0 (30_encoding.md R78: unnamed ports assemble as 0). -/
def zeroRequest : Request :=
  { cw := 0, id := 0, len := 0, data := 0, status := 0, position := 0, current := 0, temp := 0, cmdv := 0 }

/-- The inputs driven with a request that `State.withCommandWord` makes: identifiers 0, standard identifiers not routed,
SATURATE. DESIGN CHOICE (log entry 6); it is no default of the block, which has none (10_state.md R25). -/
def zeroCfg : Cfg := { cmdId := 0, tlmId := 0, stdRoute := false, tempPolicy := .saturate }

/-- `s` with `cw` on the `CW` port of the request answered next; a request with all other ports 0 is presented where
none is in flight (log entry 6). -/
def State.withCommandWord (s : State) (cw : CommandWord) : State :=
  match s.pending with
  | [] => { s with pending := [{ cfg := zeroCfg, req := { zeroRequest with cw := cw } }] }
  | p :: rest => { s with pending := { p with req := { p.req with cw := cw } } :: rest }

end Sys2Proof.Machine
end

