-- ==== Sys2Proof/Machine/FieldTranscoder.lean ====
section
/-! DEFINITION. The Field Transcoder (40_field_transcoder.md): the shared field functions and the operations ENC_U24,
DEC_U24, ENC_TEMP, DEC_TEMP. -/

namespace Sys2Proof.Machine

/-- `le16_enc(v)` (40_field_transcoder.md R91). -/
def le16Enc (v : U16) : Payload := [v.extractLsb' 0 8, v.extractLsb' 8 8]

/-- `le16_dec([b0, b1]) = b0 + 256 * b1` (40_field_transcoder.md R91). -/
def le16Dec (b0 b1 : Byte) : U16 := BitVec.ofNat 16 (b0.toNat + 256 * b1.toNat)

/-- `u24_enc(v)` (40_field_transcoder.md R92). -/
def u24Enc (v : U24) : Payload := [v.extractLsb' 0 8, v.extractLsb' 8 8, v.extractLsb' 16 8]

/-- `u24_dec([b0, b1, b2]) = b0 + 256 * b1 + 65536 * b2` (40_field_transcoder.md R93). -/
def u24Dec (b0 b1 b2 : Byte) : U24 := BitVec.ofNat 24 (b0.toNat + 256 * b1.toNat + 65536 * b2.toNat)

/-- `temp_enc(cfg, L)`: the wire byte and the saturation flag, or E_TEMP_RANGE (40_field_transcoder.md R96).
The comparison is on the integer `L`, and `L + 50` is formed in range only (R99). -/
def tempEnc (cfg : Cfg) (L : Int) : Except ErrorCode (Byte × Bool) :=
  if tempMin ≤ L ∧ L ≤ tempMax then .ok (BitVec.ofInt 8 (L + tempBias), false)
  else
    match cfg.tempPolicy with
    | .saturate => if L < tempMin then .ok (0x00, true) else .ok (0xFF, true)
    | .reject => .error .eTempRange

/-- `temp_dec(b) = b - 50`, the byte zero-extended (40_field_transcoder.md R97). -/
def tempDec (b : Byte) : I16 := BitVec.ofInt 16 ((b.toNat : Int) - tempBias)

/-- ENC_U24: the response (40_field_transcoder.md R92). -/
def encU24Response (_cfg : Cfg) (req : Request) : Response := .bytes (u24Enc req.status) false

/-- ENC_U24 (40_field_transcoder.md R92). -/
def execEncU24 (s : State) : Result := answer encU24Response s

/-- DEC_U24: the response; lanes 0 to 2 are read whatever `LEN` is (40_field_transcoder.md R93). -/
def decU24Response (_cfg : Cfg) (req : Request) : Response :=
  .u32 ((u24Dec (lane req.data 0) (lane req.data 1) (lane req.data 2)).setWidth 32)

/-- DEC_U24 (40_field_transcoder.md R93). -/
def execDecU24 (s : State) : Result := answer decU24Response s

/-- ENC_TEMP: the response (40_field_transcoder.md R95). -/
def encTempResponse (cfg : Cfg) (req : Request) : Response :=
  match tempEnc cfg (logicalTemp req) with
  | .ok (byte, sat) => .bytes [byte] sat
  | .error code => raise code

/-- ENC_TEMP (40_field_transcoder.md R95). -/
def execEncTemp (s : State) : Result := answer encTempResponse s

/-- DEC_TEMP: the response; lane 0 is read whatever `LEN` is (40_field_transcoder.md R97). -/
def decTempResponse (_cfg : Cfg) (req : Request) : Response := .i16 (tempDec (lane req.data 0))

/-- DEC_TEMP (40_field_transcoder.md R97). -/
def execDecTemp (s : State) : Result := answer decTempResponse s

end Sys2Proof.Machine
end

