-- ==== Sys2Proof/Machine/FrameCodec.lean ====
section
/-! DEFINITION. The Frame Codec (41_frame_codec.md): the two layouts, and the operations ENCODE.TLM, ENCODE.CMD,
ENCODE.UNS, DEC_CMD, DEC_TLM. -/

namespace Sys2Proof.Machine

/-- `tlm_enc(cfg, s, p, c, L)`: status 3 bytes, position 2, current 2, temp 1 (41_frame_codec.md R111). -/
def tlmEnc (cfg : Cfg) (status : U24) (position current : U16) (L : Int) : Except ErrorCode (Payload × Bool) :=
  match tempEnc cfg L with
  | .error code => .error code
  | .ok (tb, sat) => .ok (u24Enc status ++ le16Enc position ++ le16Enc current ++ [tb], sat)

/-- `tlm_enc` of the Telemetry operand of a request (30_encoding.md R64). -/
def tlmEncRequest (cfg : Cfg) (req : Request) : Except ErrorCode (Payload × Bool) :=
  tlmEnc cfg req.status req.position req.current (logicalTemp req)

/-- `cmd_enc(v)` (41_frame_codec.md R112). -/
def cmdEnc (v : U16) : Payload := le16Enc v

/-- `cmd_dec(P)`: at least 2 bytes, else E_LENGTH and nothing is read; bytes past the second are ignored
(41_frame_codec.md R114). -/
def cmdDec (P : Payload) : Except ErrorCode MotorCmd :=
  match P with
  | b0 :: b1 :: _ => .ok { cmdValue := le16Dec b0 b1 }
  | _ => .error .eLength

/-- `tlm_dec(P)`: at least 8 bytes, else E_LENGTH and nothing is read (41_frame_codec.md R115). -/
def tlmDec (P : Payload) : Except ErrorCode Telemetry :=
  match P with
  | b0 :: b1 :: b2 :: b3 :: b4 :: b5 :: b6 :: b7 :: _ =>
    .ok { status := u24Dec b0 b1 b2, position := le16Dec b3 b4, current := le16Dec b5 b6, temp := tempDec b7 }
  | _ => .error .eLength

/-- A decoded MotorCmd, or its error, as a response (41_frame_codec.md R114). -/
def motorCmdResponse (r : Except ErrorCode MotorCmd) : Response :=
  match r with
  | .ok m => .msg (.motorCmd m)
  | .error code => raise code

/-- A decoded Telemetry, or its error, as a response (41_frame_codec.md R115). -/
def telemetryResponse (r : Except ErrorCode Telemetry) : Response :=
  match r with
  | .ok t => .msg (.telemetry t)
  | .error code => raise code

/-- ENCODE.TLM: the response (41_frame_codec.md R111). -/
def encodeTlmResponse (cfg : Cfg) (req : Request) : Response :=
  match tlmEncRequest cfg req with
  | .ok (q, sat) => .bytes q sat
  | .error code => raise code

/-- ENCODE.TLM (41_frame_codec.md R111). -/
def execEncodeTlm (s : State) : Result := answer encodeTlmResponse s

/-- ENCODE.CMD: the response (41_frame_codec.md R112). -/
def encodeCmdResponse (_cfg : Cfg) (req : Request) : Response := .bytes (cmdEnc req.cmdv) false

/-- ENCODE.CMD (41_frame_codec.md R112). -/
def execEncodeCmd (s : State) : Result := answer encodeCmdResponse s

/-- ENCODE.UNS: the response (41_frame_codec.md R113). -/
def encodeUnsResponse (_cfg : Cfg) (_req : Request) : Response := .noFrame

/-- ENCODE.UNS (41_frame_codec.md R113). -/
def execEncodeUns (s : State) : Result := answer encodeUnsResponse s

/-- DEC_CMD: the response (41_frame_codec.md R114). -/
def decCmdResponse (_cfg : Cfg) (req : Request) : Response := motorCmdResponse (cmdDec (payloadOf req))

/-- DEC_CMD (41_frame_codec.md R114). -/
def execDecCmd (s : State) : Result := answer decCmdResponse s

/-- DEC_TLM: the response (41_frame_codec.md R115). -/
def decTlmResponse (_cfg : Cfg) (req : Request) : Response := telemetryResponse (tlmDec (payloadOf req))

/-- DEC_TLM (41_frame_codec.md R115). -/
def execDecTlm (s : State) : Result := answer decTlmResponse s

end Sys2Proof.Machine
end

