-- ==== Sys2Proof/Machine/Dispatcher.lean ====
section
/-! DEFINITION. The Message Dispatcher (42_dispatcher.md): the identifier demultiplexer, identifier validity, and the
operations CLASSIFY, BUILD.TLM, BUILD.CMD, BUILD.UNS, CHECK_ID. -/

namespace Sys2Proof.Machine

/-- `id_valid(ext, raw)`: the raw value fits its form (42_dispatcher.md R140, 10_state.md R33). -/
def idValid (ext : Form) (raw : U32) : Bool :=
  match ext with
  | .extended => decide (raw.toNat ≤ extIdMax)
  | .standard => decide (raw.toNat ≤ stdIdMax)

/-- `select(cfg, ext, raw)`: the command identifier is tested first (42_dispatcher.md R132, R133). -/
def selectType (cfg : Cfg) (ext : Form) (raw : U32) : MsgType :=
  if ext = .standard ∧ cfg.stdRoute = false then .noType
  else if raw = cfg.cmdId then .cmdType
  else if raw = cfg.tlmId then .tlmType
  else .noType

/-- CLASSIFY: the response; under NoType the payload is not looked at (42_dispatcher.md R131, R134). -/
def classifyResponse (ext : Form) (cfg : Cfg) (req : Request) : Response :=
  match selectType cfg ext req.id with
  | .noType => .msg .unsupported
  | .cmdType => motorCmdResponse (cmdDec (payloadOf req))
  | .tlmType => telemetryResponse (tlmDec (payloadOf req))

/-- CLASSIFY (42_dispatcher.md R131). -/
def execClassify (ext : Form) (s : State) : Result := answer (classifyResponse ext) s

/-- BUILD.TLM: the response; the identifier is tested first (42_dispatcher.md R136, 60_exceptions.md R153). -/
def buildTlmResponse (ext : Form) (cfg : Cfg) (req : Request) : Response :=
  if idValid ext req.id then
    match tlmEncRequest cfg req with
    | .ok (q, sat) => .frame ext req.id q sat
    | .error code => raise code
  else raise .eIdRange

/-- BUILD.TLM (42_dispatcher.md R136). -/
def execBuildTlm (ext : Form) (s : State) : Result := answer (buildTlmResponse ext) s

/-- BUILD.CMD: the response (42_dispatcher.md R137). -/
def buildCmdResponse (ext : Form) (_cfg : Cfg) (req : Request) : Response :=
  if idValid ext req.id then .frame ext req.id (cmdEnc req.cmdv) false else raise .eIdRange

/-- BUILD.CMD (42_dispatcher.md R137). -/
def execBuildCmd (ext : Form) (s : State) : Result := answer (buildCmdResponse ext) s

/-- BUILD.UNS: the response; neither the form nor the identifier is read (42_dispatcher.md R138). -/
def buildUnsResponse (_ext : Form) (_cfg : Cfg) (_req : Request) : Response := .noFrame

/-- BUILD.UNS (42_dispatcher.md R138). -/
def execBuildUns (ext : Form) (s : State) : Result := answer (buildUnsResponse ext) s

/-- CHECK_ID: the response (42_dispatcher.md R141). -/
def checkIdResponse (ext : Form) (_cfg : Cfg) (req : Request) : Response :=
  if idValid ext req.id then .idOk ext req.id else raise .eIdRange

/-- CHECK_ID (42_dispatcher.md R141). -/
def execCheckId (ext : Form) (s : State) : Result := answer (checkIdResponse ext) s

end Sys2Proof.Machine
end

