-- ==== Sys2Proof/Machine/Dispatch.lean ====
section
/-! DEFINITION. `exec`: one arm per operation form, each one call of its meaning (30_encoding.md R62). -/

namespace Sys2Proof.Machine

def exec (i : Instr) (s : State) : Host.Outcome State Fault Refusal :=
  match i with
  | .encU24 => Sys2Proof.Machine.execEncU24 s
  | .decU24 => Sys2Proof.Machine.execDecU24 s
  | .encTemp => Sys2Proof.Machine.execEncTemp s
  | .decTemp => Sys2Proof.Machine.execDecTemp s
  | .encodeTlm => Sys2Proof.Machine.execEncodeTlm s
  | .encodeCmd => Sys2Proof.Machine.execEncodeCmd s
  | .encodeUns => Sys2Proof.Machine.execEncodeUns s
  | .decCmd => Sys2Proof.Machine.execDecCmd s
  | .decTlm => Sys2Proof.Machine.execDecTlm s
  | .classify ext => Sys2Proof.Machine.execClassify ext s
  | .buildTlm ext => Sys2Proof.Machine.execBuildTlm ext s
  | .buildCmd ext => Sys2Proof.Machine.execBuildCmd ext s
  | .buildUns ext => Sys2Proof.Machine.execBuildUns ext s
  | .checkId ext => Sys2Proof.Machine.execCheckId ext s

end Sys2Proof.Machine
end

