-- ==== Sys2Proof/Machine/Step.lean ====
section
/-! DEFINITION. One step: the oldest request in flight is answered (70_reset_and_hazards.md R177). -/

namespace Sys2Proof.Machine

/-- One step. With no request in flight nothing happens (60_exceptions.md R159); otherwise the command word of the oldest
request is decoded and that request is answered, an illegal word by Err(E_ILLEGAL) (30_encoding.md R68, R80). -/
def step (s : State) : Host.Outcome State Fault Refusal :=
  match fetch s with
  | none => idle s
  | some (.instr i) => exec i s
  | some (.illegal _) => execIllegal s

/-- `s` with a table word on the `CW` port of the request that the next step answers (log entry 6). -/
def State.withFetchWord (s : State) (nbits w : Nat) : State := s.withCommandWord (commandWordOf nbits w)

end Sys2Proof.Machine
end

