-- ==== Sys2Proof/Machine/TextSyntax.lean ====
section
/-! DEFINITION. The text form of a request and the CFG directive (30_encoding.md R78), as an assembler: a line of text to
the ports it puts values on, a program to the requests its host presents. It is a property of the spec's notation, not of
the hardware (92_eei_decisions.md D21; log entry 11). -/

namespace Sys2Proof.Machine

/-- A lexeme: a word, a number, or one of `=`, `,`, `[`, `]`. -/
abbrev Lexeme := List Char

/-- The lexeme read so far, if any. -/
def flushLexeme (acc : Lexeme) : List Lexeme := if acc.isEmpty then [] else [acc]

/-- Cut a line into lexemes; spaces separate and are dropped. -/
def lexemes : List Char → Lexeme → List Lexeme
  | [], acc => flushLexeme acc
  | c :: cs, acc =>
    if c = ' ' then flushLexeme acc ++ lexemes cs []
    else if c = '=' ∨ c = ',' ∨ c = '[' ∨ c = ']' then flushLexeme acc ++ [c] :: lexemes cs []
    else lexemes cs (acc ++ [c])

/-- The value of a digit, capital or small letters above 9. -/
def digitValue (c : Char) : Option Nat :=
  if '0' ≤ c ∧ c ≤ '9' then some (c.toNat - '0'.toNat)
  else if 'a' ≤ c ∧ c ≤ 'f' then some (c.toNat - 'a'.toNat + 10)
  else if 'A' ≤ c ∧ c ≤ 'F' then some (c.toNat - 'A'.toNat + 10)
  else none

/-- The digits of a number in a base, most significant first, onto the value read so far. -/
def digitsValue (base : Nat) : List Char → Nat → Option Nat
  | [], acc => some acc
  | c :: cs, acc =>
    match digitValue c with
    | some d => if d < base then digitsValue base cs (base * acc + d) else none
    | none => none

/-- A number: `0x..` is hexadecimal, `0b..` binary, anything else decimal (00_scope.md R9). -/
def natValue (l : Lexeme) : Option Nat :=
  match l with
  | [] => none
  | ['0', 'x'] => none
  | ['0', 'b'] => none
  | '0' :: 'x' :: ds => digitsValue 16 ds 0
  | '0' :: 'b' :: ds => digitsValue 2 ds 0
  | ds => digitsValue 10 ds 0

/-- A number with an optional minus sign: "`temp` may be negative" (30_encoding.md R78). The sign is read before any operand's
number; R78 does not say whether a zero may carry it. DESIGN CHOICE (log entry 11): `-0` is 0. -/
def intValue (l : Lexeme) : Option Int :=
  match l with
  | '-' :: ds => (natValue ds).map (fun n : Nat => -(n : Int))
  | ds => (natValue ds).map (fun n : Nat => (n : Int))

/-- An operand of a line: `ext` or `std`, `name=value`, or a bracketed list of bytes. -/
inductive Operand where
  | form (ext : Form)
  | named (name : Lexeme) (value : Int)
  | bytes (bs : List Nat)
  deriving DecidableEq, Repr

/-- Cut the lexemes after the mnemonic at the commas outside brackets. -/
def operandGroups : List Lexeme → Bool → List Lexeme → List (List Lexeme)
  | [], _, acc => [acc]
  | l :: ls, inside, acc =>
    if l = [','] ∧ inside = false then acc :: operandGroups ls false []
    else if l = ['['] then operandGroups ls true (acc ++ [l])
    else if l = [']'] then operandGroups ls false (acc ++ [l])
    else operandGroups ls inside (acc ++ [l])

/-- The bytes of a nonempty bracketed list, after its opening bracket: "a bracketed list of bytes" (30_encoding.md R78). Two
points R78 leaves open are settled here. DESIGN CHOICE (log entry 11): a list that 95_test_vectors.md shortens with a
repetition sign, as in `DEC_TLM [0x00 × 8]`, is refused, and so is a byte with a minus sign, `-0` included. -/
def byteTail : List Lexeme → Option (List Nat)
  | [] => none
  | [_] => none
  | [b, c] => if c = [']'] then (natValue b).map (fun n : Nat => [n]) else none
  | b :: c :: rest =>
    if c = [','] then
      match natValue b, byteTail rest with
      | some n, some ns => some (n :: ns)
      | _, _ => none
    else none

/-- A bracketed list of bytes, after its opening bracket. -/
def byteList (ls : List Lexeme) : Option (List Nat) := if ls = [[']']] then some [] else byteTail ls

/-- One operand. -/
def operandOf (g : List Lexeme) : Option Operand :=
  match g with
  | [] => none
  | [w] => if w = ['e', 'x', 't'] then some (.form .extended)
           else if w = ['s', 't', 'd'] then some (.form .standard) else none
  | w :: rest =>
    if w = ['['] then (byteList rest).map .bytes
    else
      match rest with
      | [e, v] => if e = ['='] then (intValue v).map (.named w) else none
      | _ => none

/-- All operands of a line, in order; none of them may be bad. -/
def operandsOf : List (List Lexeme) → Option (List Operand)
  | [] => some []
  | g :: gs =>
    match operandOf g, operandsOf gs with
    | some o, some os => some (o :: os)
    | _, _ => none

/-- The operands after the mnemonic; a line may have none. -/
def lineOperands (ls : List Lexeme) : Option (List Operand) :=
  if ls.isEmpty then some [] else operandsOf (operandGroups ls false [])

/-- The value of an unsigned operand of `w` bits under its name. A negative value is refused; `-0` is 0 and is accepted, a
point R78 leaves open. DESIGN CHOICE (log entry 11). -/
def unsignedOperand (name : String) (w : Nat) (o : Operand) : Option (BitVec w) :=
  match o with
  | .named n v => if n = name.toList ∧ 0 ≤ v ∧ v < 2 ^ w then some (BitVec.ofInt w v) else none
  | .form _ => none
  | .bytes _ => none

/-- The value of the operand `temp`, an i16. -/
def tempOperand (o : Operand) : Option I16 :=
  match o with
  | .named n v => if n = ['t', 'e', 'm', 'p'] ∧ -32768 ≤ v ∧ v ≤ 32767 then some (BitVec.ofInt 16 v) else none
  | .form _ => none
  | .bytes _ => none

/-- The form of an identifier operand. -/
def formOperand (o : Operand) : Option Form :=
  match o with
  | .form ext => some ext
  | .named _ _ => none
  | .bytes _ => none

/-- The payload of a byte-list operand: at most 8 bytes, each below 256. -/
def payloadOperand (o : Operand) : Option Payload :=
  match o with
  | .bytes bs => if bs.length ≤ payloadMax ∧ bs.all (fun b => decide (b < 256)) = true then some (bs.map (BitVec.ofNat 8)) else none
  | .form _ => none
  | .named _ _ => none

/-- A request with only its command word set: "0 on every bit and port the line does not name" (30_encoding.md R78). -/
def requestFor (i : Instr) : Request := { zeroRequest with cw := encode i }

/-- The bytes on `LEN` and the low lanes of `DATA` (30_encoding.md R78). -/
def putPayload (req : Request) (P : Payload) : Request := { req with len := lenPort P, data := dataPort P }

/-- The four operands of a Telemetry on their ports. -/
def putTelemetry (req : Request) (s p c t : Operand) : Option Request := do
  let status ← unsignedOperand "status" 24 s
  let position ← unsignedOperand "position" 16 p
  let current ← unsignedOperand "current" 16 c
  let temp ← tempOperand t
  some { req with status := status, position := position, current := current, temp := temp }

/-- The operand `cmd_value` on its port. -/
def putCmdValue (req : Request) (v : Operand) : Option Request := do
  let cmdv ← unsignedOperand "cmd_value" 16 v
  some { req with cmdv := cmdv }

/-- The identifier operands on their ports, with the command word of the operation for that form. -/
def putIdent (i : Form → Instr) (f id : Operand) : Option Request := do
  let ext ← formOperand f
  let raw ← unsignedOperand "id" 32 id
  some { requestFor (i ext) with id := raw }

/-- The payload of an exact length, for DEC_U24 and DEC_TEMP, whose lines have 3 bytes and 1 (30_encoding.md R78). -/
def exactPayload (n : Nat) (o : Operand) : Option Payload := do
  let P ← payloadOperand o
  if P.length = n then some P else none

/-- `ENC_U24 status=<u24>`. -/
def encU24Line (ops : List Operand) : Option Request :=
  match ops with
  | [s] => (unsignedOperand "status" 24 s).map (fun v => { requestFor .encU24 with status := v })
  | _ => none

/-- `DEC_U24 [b0, b1, b2]`. -/
def decU24Line (ops : List Operand) : Option Request :=
  match ops with
  | [b] => (exactPayload 3 b).map (putPayload (requestFor .decU24))
  | _ => none

/-- `ENC_TEMP temp=<i16>`. -/
def encTempLine (ops : List Operand) : Option Request :=
  match ops with
  | [t] => (tempOperand t).map (fun v => { requestFor .encTemp with temp := v })
  | _ => none

/-- `DEC_TEMP [b0]`. -/
def decTempLine (ops : List Operand) : Option Request :=
  match ops with
  | [b] => (exactPayload 1 b).map (putPayload (requestFor .decTemp))
  | _ => none

/-- `ENCODE.TLM status=<u24>, position=<u16>, current=<u16>, temp=<i16>`. -/
def encodeTlmLine (ops : List Operand) : Option Request :=
  match ops with
  | [s, p, c, t] => putTelemetry (requestFor .encodeTlm) s p c t
  | _ => none

/-- `ENCODE.CMD cmd_value=<u16>`. -/
def encodeCmdLine (ops : List Operand) : Option Request :=
  match ops with
  | [v] => putCmdValue (requestFor .encodeCmd) v
  | _ => none

/-- `ENCODE.UNS`. -/
def encodeUnsLine (ops : List Operand) : Option Request :=
  match ops with
  | [] => some (requestFor .encodeUns)
  | _ => none

/-- `DEC_CMD [b0, ...]`. -/
def decCmdLine (ops : List Operand) : Option Request :=
  match ops with
  | [b] => (payloadOperand b).map (putPayload (requestFor .decCmd))
  | _ => none

/-- `DEC_TLM [b0, ...]`. -/
def decTlmLine (ops : List Operand) : Option Request :=
  match ops with
  | [b] => (payloadOperand b).map (putPayload (requestFor .decTlm))
  | _ => none

/-- `CLASSIFY ext|std, id=<u32>, [b0, ...]`. -/
def classifyLine (ops : List Operand) : Option Request :=
  match ops with
  | [f, id, b] => do
    let req ← putIdent .classify f id
    let P ← payloadOperand b
    some (putPayload req P)
  | _ => none

/-- `BUILD.TLM ext|std, id=<u32>, status=<u24>, position=<u16>, current=<u16>, temp=<i16>`. -/
def buildTlmLine (ops : List Operand) : Option Request :=
  match ops with
  | [f, id, s, p, c, t] => do
    let req ← putIdent .buildTlm f id
    putTelemetry req s p c t
  | _ => none

/-- `BUILD.CMD ext|std, id=<u32>, cmd_value=<u16>`. -/
def buildCmdLine (ops : List Operand) : Option Request :=
  match ops with
  | [f, id, v] => do
    let req ← putIdent .buildCmd f id
    putCmdValue req v
  | _ => none

/-- `BUILD.UNS ext|std, id=<u32>`. -/
def buildUnsLine (ops : List Operand) : Option Request :=
  match ops with
  | [f, id] => putIdent .buildUns f id
  | _ => none

/-- `CHECK_ID ext|std, id=<u32>`. -/
def checkIdLine (ops : List Operand) : Option Request :=
  match ops with
  | [f, id] => putIdent .checkId f id
  | _ => none

/-- One form of a request line: its mnemonic and how its operands go on the ports. -/
structure LineForm where
  mnemonic : String
  build : List Operand → Option Request

/-- The line forms of R78, in its order. -/
def lineForms : List LineForm :=
  [⟨"ENC_U24", encU24Line⟩, ⟨"DEC_U24", decU24Line⟩, ⟨"ENC_TEMP", encTempLine⟩, ⟨"DEC_TEMP", decTempLine⟩,
   ⟨"ENCODE.TLM", encodeTlmLine⟩, ⟨"ENCODE.CMD", encodeCmdLine⟩, ⟨"ENCODE.UNS", encodeUnsLine⟩,
   ⟨"DEC_CMD", decCmdLine⟩, ⟨"DEC_TLM", decTlmLine⟩, ⟨"CLASSIFY", classifyLine⟩,
   ⟨"BUILD.TLM", buildTlmLine⟩, ⟨"BUILD.CMD", buildCmdLine⟩, ⟨"BUILD.UNS", buildUnsLine⟩, ⟨"CHECK_ID", checkIdLine⟩]

/-- A request from its mnemonic and its operands, in the order of R78. -/
def requestOfLine (m : Lexeme) (ops : List Operand) : Option Request :=
  match lineForms.find? (fun f => decide (f.mnemonic.toList = m)) with
  | some f => f.build ops
  | none => none

/-- A policy or routing bit: 0 or 1 (30_encoding.md R78). -/
def bitOperand (name : String) (o : Operand) : Option Bool := (unsignedOperand name 1 o).map (· == 1)

/-- The values of a CFG directive (30_encoding.md R78). -/
def cfgOfLine (ops : List Operand) : Option Cfg :=
  match ops with
  | [c, t, s, p] => do
    let cmdId ← unsignedOperand "cmd" 32 c
    let tlmId ← unsignedOperand "tlm" 32 t
    let stdRoute ← bitOperand "std_route" s
    let reject ← bitOperand "temp_policy" p
    some { cmdId := cmdId, tlmId := tlmId, stdRoute := stdRoute,
           tempPolicy := if reject then .reject else .saturate }
  | _ => none

/-- A line: the CFG directive, or a request. -/
inductive Line where
  | cfg (c : Cfg)
  | request (req : Request)
  deriving DecidableEq, Repr

/-- Read one line of text (30_encoding.md R78); `none` where it is no line of that form. -/
def lineOf (text : String) : Option Line :=
  match lexemes text.toList [] with
  | [] => none
  | m :: rest =>
    match lineOperands rest with
    | none => none
    | some ops =>
      if m = ['C', 'F', 'G'] then (cfgOfLine ops).map .cfg else (requestOfLine m ops).map .request

/-- The requests a program presents, each with the `Cfg` of the last CFG line before it (30_encoding.md R78). R78 does not say
what a request line with no CFG line before it stands for, nor what a program with a bad line does. DESIGN CHOICE (log entry
11): the whole program then has no meaning, even where the operation reads no configuration input. -/
def programOf : List String → Option Cfg → Option (List Presented)
  | [], _ => some []
  | text :: rest, current =>
    match lineOf text, current with
    | some (.cfg c), _ => programOf rest (some c)
    | some (.request req), some c => (programOf rest (some c)).map fun ps => { cfg := c, req := req } :: ps
    | some (.request _), none => none
    | none, _ => none

end Sys2Proof.Machine
end

