-- ==== Sys2Proof/Machine/Block.lean ====
section
/-! DEFINITION. The block as the spec writes it, `exec : Cfg -> Request -> Response` (10_state.md R20), beside the machine
over State: the response of each operation form, and of every request. -/

namespace Sys2Proof.Machine

/-- The response of an operation form to a request that asks for it, under the `Cfg` sampled with it. -/
def responseOf (i : Instr) : Cfg → Request → Response :=
  match i with
  | .encU24 => encU24Response
  | .decU24 => decU24Response
  | .encTemp => encTempResponse
  | .decTemp => decTempResponse
  | .encodeTlm => encodeTlmResponse
  | .encodeCmd => encodeCmdResponse
  | .encodeUns => encodeUnsResponse
  | .decCmd => decCmdResponse
  | .decTlm => decTlmResponse
  | .classify ext => classifyResponse ext
  | .buildTlm ext => buildTlmResponse ext
  | .buildCmd ext => buildCmdResponse ext
  | .buildUns ext => buildUnsResponse ext
  | .checkId ext => checkIdResponse ext

/-- The pure function the block is: every request with every `Cfg` gives exactly one response
(10_state.md R20, 60_exceptions.md R158). -/
def block (cfg : Cfg) (req : Request) : Response :=
  match decode req.cw with
  | .instr i => responseOf i cfg req
  | .illegal _ => illegalResponse cfg req

/-- The response to a presented request. -/
def blockOf (p : Presented) : Response := block p.cfg p.req

end Sys2Proof.Machine
end

