-- ==== Sys2Proof/Machine/Run.lean ====
section
/-! DEFINITION. Runs (70_reset_and_hazards.md R181): a number of steps on one port, and several instances of the block, each
with its own port (60_exceptions.md R164, 20_memory.md R52 (b)). The instances share nothing; which one moves next is a
schedule, a list of instance numbers (log entry 12). -/

namespace Sys2Proof.Machine

/-- `k` steps, stopping at the first fault or refusal. -/
def runSteps : Nat → State → Result
  | 0, s => .next s
  | k + 1, s =>
    match step s with
    | .next t => runSteps k t
    | .fault why => .fault why
    | .refused why => .refused why

/-- Instance `k` makes one step; the others stand still. -/
def stepInstance (k : Nat) (sys : List State) : List State :=
  match sys[k]? with
  | none => sys
  | some s =>
    match step s with
    | .next t => sys.set k t
    | .fault _ => sys
    | .refused _ => sys

/-- The instances after a schedule. -/
def runSchedule : List Nat → List State → List State
  | [], sys => sys
  | k :: rest, sys => runSchedule rest (stepInstance k sys)

end Sys2Proof.Machine
end

