-- ==== Sys2Proof/WellFormed.lean ====
section
/-! DEFINITION. When the values that cross the ports are well-formed. Every term of Instr is an operation the table has
(its one operand, a form, has no bad value), so what can be ill-formed is a command word, a payload, an identifier, a
Telemetry, a request or a response. -/

namespace Sys2Proof

/-- A command word is legal (30_encoding.md R68): `op` is below 0xA, and ENCODE and BUILD have a tag other than 3. -/
def CommandWord.legal (cw : CommandWord) : Bool :=
  decide ((cwOp cw).toNat < 0xA) && !(decide (cwOp cw = 4 ∨ cwOp cw = 8) && decide (cwMtag cw = 3))

/-- A payload has at most 8 bytes (00_scope.md R11, 10_state.md R37). -/
def Payload.wf (P : Payload) : Bool := decide (P.length ≤ 8)

/-- The raw value has no bit above the 29 or 11 of its form (30_encoding.md R76). -/
def identWf (ext : Form) (raw : U32) : Bool :=
  match ext with
  | .extended => decide (raw.extractLsb' 29 3 = 0)
  | .standard => decide (raw.extractLsb' 11 21 = 0)

/-- A logical temperature in the usable range (10_state.md R30). -/
def tempWf (t : I16) : Bool := decide (-50 ≤ t.toInt ∧ t.toInt ≤ 205)

/-- A Telemetry as the block produces it: `temp` in its usable range (10_state.md R30). -/
def Telemetry.wf (t : Telemetry) : Bool := tempWf t.temp

/-- A message as the block produces it (10_state.md R29 to R31). -/
def Message.wf : Message → Bool
  | .telemetry t => t.wf
  | .motorCmd _ => true
  | .unsupported => true

/-- A request within the interface's contract: a legal command word and `LEN` at most 8 (30_encoding.md R66, R68). The
block answers every other request too. -/
def Request.wf (req : Request) : Bool := CommandWord.legal req.cw && decide (req.len.toNat ≤ 8)

/-- A saturated encoding ends in the nearest end of the wire range, 0x00 or 0xFF (40_field_transcoder.md R96), and only
the encodings that hold a temperature, 1 or 8 bytes long, saturate (10_state.md R23). -/
def satWf (q : Payload) (sat : Bool) : Bool :=
  !sat || ((decide (q.length = 1) || decide (q.length = 8)) && decide (q.getLast? = some 0x00 ∨ q.getLast? = some 0xFF))

/-- A response as the block gives it: lengths as 30_encoding.md R70, numbers in the ranges of R93, R97 and R30, frame
identifiers valid (42_dispatcher.md R140), saturation as 10_state.md R23. -/
def Response.wf : Response → Bool
  | .bytes q sat => decide (q.length = 1 ∨ q.length = 2 ∨ q.length = 3 ∨ q.length = 8) && satWf q sat
  | .u32 v => decide (v.toNat < 2 ^ 24)
  | .i16 v => tempWf v
  | .msg m => m.wf
  | .frame ext raw q sat => identWf ext raw && decide (q.length = 2 ∨ q.length = 8) && satWf q sat
  | .noFrame => true
  | .idOk ext raw => identWf ext raw
  | .err _ => true

end Sys2Proof
end

