-- ==== Sys2Proof/Safety.lean ====
section
/-! DEFINITION. What claims say of a safe run: every response given is well-formed, and what the answers to the requests
in flight will be. -/

namespace Sys2Proof.Machine

/-- The invariant: every response given is one that 30_encoding.md R70 to R73 and the range rules allow. The requests in
flight are under no condition: a host may present any of them (70_reset_and_hazards.md R180). -/
def GivenWellFormed (s : State) : Prop := ∀ r ∈ s.given, r.wf = true

/-- The responses a state has given once every request in flight is answered (70_reset_and_hazards.md R181). -/
def finalResponses (s : State) : List Response := s.given ++ s.pending.map blockOf

/-- A response is an error (60_exceptions.md R151); `Unsupported` and `NoFrame` are not (R152). -/
def isError : Response → Bool
  | .err _ => true
  | .bytes _ _ => false
  | .u32 _ => false
  | .i16 _ => false
  | .msg _ => false
  | .frame _ _ _ _ => false
  | .noFrame => false
  | .idOk _ _ => false

/-- An identifier fits its form: at most 0x1FFFFFFF extended, at most 0x7FF standard (10_state.md R33). -/
abbrev FitsForm (ext : Form) (raw : U32) : Prop :=
  (ext = .extended ∧ raw.toNat ≤ 0x1FFFFFFF) ∨ (ext = .standard ∧ raw.toNat ≤ 0x7FF)

/-- A logical temperature is outside -50..205 (40_field_transcoder.md R96). -/
abbrev OutOfRange (L : Int) : Prop := L < -50 ∨ 205 < L

/-- `tb` is the wire byte of the logical temperature `L` and `sat` its flag: exact in range, the nearest end of the range
under SATURATE (40_field_transcoder.md R96). -/
abbrev TempEncodes (policy : TempPolicy) (L : Int) (tb : Byte) (sat : Bool) : Prop :=
  (-50 ≤ L ∧ L ≤ 205 ∧ (tb.toNat : Int) = L + 50 ∧ sat = false) ∨
  (L < -50 ∧ policy = .saturate ∧ tb = 0x00 ∧ sat = true) ∨
  (205 < L ∧ policy = .saturate ∧ tb = 0xFF ∧ sat = true)

/-- `t` is the Telemetry that the 64 data bits `d` hold, field by field (20_memory.md R48, 41_frame_codec.md R115). -/
abbrev TelemetryOfData (t : Telemetry) (d : BitVec 64) : Prop :=
  t.status = d.extractLsb' 0 24 ∧ t.position = d.extractLsb' 24 16 ∧ t.current = d.extractLsb' 40 16 ∧
  t.temp.toInt = ((d.extractLsb' 56 8).toNat : Int) - 50

/-- Two presented requests agree on every port and every configuration input that the operation reads
(30_encoding.md R61). -/
def ReadsAgree (i : Instr) (p q : Presented) : Prop :=
  match i with
  | .encU24 => p.req.status = q.req.status
  | .decU24 => p.req.data.extractLsb' 0 24 = q.req.data.extractLsb' 0 24
  | .encTemp => p.req.temp = q.req.temp ∧ p.cfg.tempPolicy = q.cfg.tempPolicy
  | .decTemp => p.req.data.extractLsb' 0 8 = q.req.data.extractLsb' 0 8
  | .encodeTlm => p.req.status = q.req.status ∧ p.req.position = q.req.position ∧ p.req.current = q.req.current ∧
      p.req.temp = q.req.temp ∧ p.cfg.tempPolicy = q.cfg.tempPolicy
  | .encodeCmd => p.req.cmdv = q.req.cmdv
  | .encodeUns => True
  | .decCmd => p.req.len = q.req.len ∧ p.req.data.extractLsb' 0 16 = q.req.data.extractLsb' 0 16
  | .decTlm => p.req.len = q.req.len ∧ p.req.data = q.req.data
  | .classify _ => p.req.id = q.req.id ∧ p.req.len = q.req.len ∧ p.req.data = q.req.data ∧
      p.cfg.cmdId = q.cfg.cmdId ∧ p.cfg.tlmId = q.cfg.tlmId ∧ p.cfg.stdRoute = q.cfg.stdRoute
  | .buildTlm _ => p.req.id = q.req.id ∧ p.req.status = q.req.status ∧ p.req.position = q.req.position ∧
      p.req.current = q.req.current ∧ p.req.temp = q.req.temp ∧ p.cfg.tempPolicy = q.cfg.tempPolicy
  | .buildCmd _ => p.req.id = q.req.id ∧ p.req.cmdv = q.req.cmdv
  | .buildUns _ => True
  | .checkId _ => p.req.id = q.req.id

end Sys2Proof.Machine
end

