-- ==== Sys2Proof/Certificates/Slice0/Obligations.lean ====
section
/-! DEFINITION. The statements for the provers, each from a numbered rule of spec/. -/

open Sys2Proof Sys2Proof.Machine

/-! The step and the command word. -/

/-- With no request in flight a step and every operation leave the state as it is. The model's reading of "Nothing happens
in the block between requests" (60_exceptions.md R159), DEDUCED, log entry 4. -/
def Obligations.NothingHappensBetweenRequests : Prop :=
  ∀ s : State, s.pending = [] → step s = .next s ∧ ∀ i : Instr, exec i s = .next s

/-- A step runs the operation that the command word of the oldest request decodes to (30_encoding.md R80; 20_memory.md
R55). -/
def Obligations.StepRunsDecodedOperation : Prop :=
  ∀ (s : State) (p : Presented) (rest : List Presented) (i : Instr),
    s.pending = p :: rest → decode p.req.cw = .instr i → step s = exec i s

/-- Which command words are illegal, how many, and what happens: the response Err(E_ILLEGAL), nothing else, and the next
request is executed normally (30_encoding.md R68). -/
def Obligations.IllegalWordsAnswerIllegal : Prop :=
  (∀ cw : CommandWord, (∃ why, decode cw = .illegal why) ↔
    (10 ≤ cw.toNat % 16 ∨ ((cw.toNat % 16 = 4 ∨ cw.toNat % 16 = 8) ∧ cw.toNat / 16 % 4 = 3))) ∧
  ((List.range 128).filter fun w => (decodeTableWord 8 w).isSome).length = 76 ∧
  ((List.range 128).filter fun w => (decodeTableWord 8 w).isNone).length = 52 ∧
  (∀ (s : State) (p : Presented) (rest : List Presented) (why : IllegalWord),
    s.pending = p :: rest → decode p.req.cw = .illegal why →
      step s = .next ⟨rest, s.given ++ [.err .eIllegal]⟩ ∧
      ∀ (q : Presented) (rest2 : List Presented) (i : Instr), rest = q :: rest2 → decode q.req.cw = .instr i →
        step ⟨rest, s.given ++ [.err .eIllegal]⟩ = exec i ⟨rest, s.given ++ [.err .eIllegal]⟩)

/-- A command word selects the row of the operation table for which `(CW & mask) = match`, and that row's mnemonic is the
decoded one; an illegal word selects none (30_encoding.md R62). -/
def Obligations.DecodeFollowsTable : Prop :=
  ∀ cw : CommandWord, ((opcodeTable.filter fun row => row.selects cw).map fun row => row.mnemonic) =
    (match decode cw with
     | .instr i => [mnemonic i]
     | .illegal _ => [])

/-- Decoding what the encoder writes gives the operation back, and encoding what the decoder reads gives the word back but
for the bits the operation ignores, which are written 0 (30_encoding.md R62, R63, R69, R78). -/
def Obligations.DecodeEncodeRoundTrip : Prop :=
  (∀ i : Instr, decode (encode i) = .instr i) ∧
  (∀ (cw : CommandWord) (i : Instr), decode cw = .instr i → encode i = cw &&& keptBits i)

/-- Words written out bit by bit, `e mm oooo`, decode as 95_test_vectors.md T7 lists. -/
def Obligations.SampleWordsDecode : Prop :=
  decode 0b0000000 = .instr .encU24 ∧ decode 0b0110000 = .instr .encU24 ∧ decode 0b1000001 = .instr .decU24 ∧
  decode 0b0000100 = .instr .encodeTlm ∧ decode 0b0010100 = .instr .encodeCmd ∧ decode 0b1100100 = .instr .encodeUns ∧
  decode 0b0000111 = .instr (.classify .standard) ∧ decode 0b1110111 = .instr (.classify .extended) ∧
  decode 0b1001000 = .instr (.buildTlm .extended) ∧ decode 0b0011000 = .instr (.buildCmd .standard) ∧
  decode 0b1101000 = .instr (.buildUns .extended) ∧ decode 0b1001001 = .instr (.checkId .extended) ∧
  decode 0b0110100 = .illegal (.reservedTag 4) ∧ decode 0b1111000 = .illegal (.reservedTag 8) ∧
  decode 0b1111111 = .illegal (.reservedOp 15)

/-- `mtag` is ignored by every operation but ENCODE and BUILD, `ext` by every operation but CLASSIFY, BUILD and CHECK_ID,
and a port or input not listed in R61 by the operation it is not listed for: the responses of two requests that agree on
the rest are equal, in any two states (30_encoding.md R69). -/
def Obligations.IgnoredBitsAndPorts : Prop :=
  (∀ a b : CommandWord, a.toNat % 16 = b.toNat % 16 →
    (a.toNat % 16 = 4 ∨ a.toNat % 16 = 8 → a.toNat / 16 % 4 = b.toNat / 16 % 4) →
    (a.toNat % 16 = 7 ∨ a.toNat % 16 = 8 ∨ a.toNat % 16 = 9 → a.toNat / 64 = b.toNat / 64) → decode a = decode b) ∧
  (∀ (s s' : State) (p p' : Presented) (rest rest' : List Presented) (i : Instr),
    s.pending = p :: rest → s'.pending = p' :: rest' → decode p.req.cw = .instr i → decode p'.req.cw = .instr i →
    ReadsAgree i p p' →
      ∃ r, step s = .next ⟨rest, s.given ++ [r]⟩ ∧ step s' = .next ⟨rest', s'.given ++ [r]⟩)

/-! The Field Transcoder. -/

/-- ENC_U24 (40_field_transcoder.md R92). -/
def Obligations.EncU24Result : Prop :=
  ∀ (s : State) (p : Presented) (rest : List Presented), s.pending = p :: rest →
    ∃ r, exec .encU24 s = .next ⟨rest, s.given ++ [r]⟩ ∧
      r = .bytes [p.req.status.extractLsb' 0 8, p.req.status.extractLsb' 8 8, p.req.status.extractLsb' 16 8] false ∧
      responsePorts r = { zeroPorts with rLen := 3, rData := p.req.status.setWidth 64 }

/-- DEC_U24, whatever `LEN` and lanes 3 to 7 hold (40_field_transcoder.md R93). -/
def Obligations.DecU24Result : Prop :=
  ∀ (s : State) (p : Presented) (rest : List Presented), s.pending = p :: rest →
    ∃ r v, exec .decU24 s = .next ⟨rest, s.given ++ [r]⟩ ∧ r = .u32 v ∧
      v.toNat = (p.req.data.extractLsb' 0 8).toNat + 256 * (p.req.data.extractLsb' 8 8).toNat +
        65536 * (p.req.data.extractLsb' 16 8).toNat ∧
      v = (p.req.data.extractLsb' 0 24).setWidth 32 ∧ responsePorts r = { zeroPorts with rVal := v }

/-- ENC_TEMP: the biased byte in range; under SATURATE the nearest end with SAT, under REJECT the error, out of range
(40_field_transcoder.md R95, R96). -/
def Obligations.EncTempResult : Prop :=
  ∀ (s : State) (p : Presented) (rest : List Presented), s.pending = p :: rest →
    (¬ (OutOfRange p.req.temp.toInt ∧ p.cfg.tempPolicy = .reject) →
      ∃ r tb sat, exec .encTemp s = .next ⟨rest, s.given ++ [r]⟩ ∧
        TempEncodes p.cfg.tempPolicy p.req.temp.toInt tb sat ∧ r = .bytes [tb] sat ∧
        responsePorts r = { zeroPorts with sat := BitVec.ofBool sat, rLen := 1, rData := tb.setWidth 64 }) ∧
    (OutOfRange p.req.temp.toInt → p.cfg.tempPolicy = .reject →
      exec .encTemp s = .next ⟨rest, s.given ++ [.err .eTempRange]⟩)

/-- DEC_TEMP: the byte, zero-extended, less 50 (40_field_transcoder.md R97). -/
def Obligations.DecTempResult : Prop :=
  ∀ (s : State) (p : Presented) (rest : List Presented), s.pending = p :: rest →
    ∃ r v, exec .decTemp s = .next ⟨rest, s.given ++ [r]⟩ ∧ r = .i16 v ∧
      v.toInt = ((p.req.data.extractLsb' 0 8).toNat : Int) - 50 ∧ -50 ≤ v.toInt ∧ v.toInt ≤ 205 ∧
      responsePorts r = { zeroPorts with rTemp := v }

/-- `temp_enc` is R96's: its answers and its error are exactly those of the rule (40_field_transcoder.md R96). -/
def Obligations.TempEncIsTheRule : Prop :=
  ∀ (cfg : Cfg) (L : Int),
    (∀ (tb : Byte) (sat : Bool), tempEnc cfg L = .ok (tb, sat) ↔ TempEncodes cfg.tempPolicy L tb sat) ∧
    (tempEnc cfg L = .error .eTempRange ↔ OutOfRange L ∧ cfg.tempPolicy = .reject) ∧
    (∀ code : ErrorCode, tempEnc cfg L = .error code → code = .eTempRange)

/-- The 16-bit little-endian helpers are inverse to each other (40_field_transcoder.md R91). -/
def Obligations.Le16RoundTrip : Prop :=
  (∀ v : U16, ∃ b0 b1 : Byte, le16Enc v = [b0, b1] ∧ b0 = v.extractLsb' 0 8 ∧ b1 = v.extractLsb' 8 8 ∧ le16Dec b0 b1 = v) ∧
  (∀ b0 b1 : Byte, (le16Dec b0 b1).toNat = b0.toNat + 256 * b1.toNat ∧ le16Enc (le16Dec b0 b1) = [b0, b1])

/-- Laws of the 24-bit field (40_field_transcoder.md R94). -/
def Obligations.U24RoundTrip : Prop :=
  (∀ v : U24, ∃ b0 b1 b2 : Byte, u24Enc v = [b0, b1, b2] ∧ u24Dec b0 b1 b2 = v) ∧
  (∀ b0 b1 b2 : Byte, u24Enc (u24Dec b0 b1 b2) = [b0, b1, b2])

/-- Laws of the temperature field, (a) to (d) (40_field_transcoder.md R98). -/
def Obligations.TemperatureLaws : Prop :=
  (∀ (cfg : Cfg) (L : Int), -50 ≤ L → L ≤ 205 →
    ∃ b : Byte, tempEnc cfg L = .ok (b, false) ∧ (b.toNat : Int) = L + 50 ∧ (tempDec b).toInt = L) ∧
  (∀ (cfg : Cfg) (b : Byte), tempEnc cfg (tempDec b).toInt = .ok (b, false)) ∧
  (∀ cfg : Cfg, tempEnc cfg (-50) = .ok (0x00, false) ∧ tempEnc cfg 205 = .ok (0xFF, false)) ∧
  ((tempDec 0x00).toInt = -50 ∧ (tempDec 0xFF).toInt = 205) ∧
  (∀ (cfg : Cfg) (t : I16), cfg.tempPolicy = .saturate →
    ∃ (b : Byte) (sat : Bool), tempEnc cfg t.toInt = .ok (b, sat) ∧ (tempDec b).toInt = max (-50) (min 205 t.toInt))

/-! The Frame Codec. -/

/-- ENCODE.TLM: the eight bytes in the order status, position, current, temp; or E_TEMP_RANGE (41_frame_codec.md R111). -/
def Obligations.EncodeTlmResult : Prop :=
  ∀ (s : State) (p : Presented) (rest : List Presented), s.pending = p :: rest →
    (¬ (OutOfRange p.req.temp.toInt ∧ p.cfg.tempPolicy = .reject) →
      ∃ r tb sat, exec .encodeTlm s = .next ⟨rest, s.given ++ [r]⟩ ∧
        TempEncodes p.cfg.tempPolicy p.req.temp.toInt tb sat ∧
        r = .bytes [p.req.status.extractLsb' 0 8, p.req.status.extractLsb' 8 8, p.req.status.extractLsb' 16 8,
          p.req.position.extractLsb' 0 8, p.req.position.extractLsb' 8 8,
          p.req.current.extractLsb' 0 8, p.req.current.extractLsb' 8 8, tb] sat ∧
        responsePorts r = { zeroPorts with sat := BitVec.ofBool sat, rLen := 8,
                                           rData := tb ++ p.req.current ++ p.req.position ++ p.req.status }) ∧
    (OutOfRange p.req.temp.toInt → p.cfg.tempPolicy = .reject →
      exec .encodeTlm s = .next ⟨rest, s.given ++ [.err .eTempRange]⟩)

/-- ENCODE.CMD (41_frame_codec.md R112). -/
def Obligations.EncodeCmdResult : Prop :=
  ∀ (s : State) (p : Presented) (rest : List Presented), s.pending = p :: rest →
    ∃ r, exec .encodeCmd s = .next ⟨rest, s.given ++ [r]⟩ ∧
      r = .bytes [p.req.cmdv.extractLsb' 0 8, p.req.cmdv.extractLsb' 8 8] false ∧
      responsePorts r = { zeroPorts with rLen := 2, rData := p.req.cmdv.setWidth 64 }

/-- ENCODE.UNS answers NoFrame: `ST = 1`, all other ports 0 (41_frame_codec.md R113). -/
def Obligations.EncodeUnsResult : Prop :=
  ∀ (s : State) (p : Presented) (rest : List Presented), s.pending = p :: rest →
    ∃ r, exec .encodeUns s = .next ⟨rest, s.given ++ [r]⟩ ∧ r = .noFrame ∧ responsePorts r = { zeroPorts with st := 1 }

/-- DEC_CMD: the low 16 data bits when at least 2 bytes are presented, else E_LENGTH (41_frame_codec.md R114). -/
def Obligations.DecCmdResult : Prop :=
  ∀ (s : State) (p : Presented) (rest : List Presented), s.pending = p :: rest →
    (2 ≤ p.req.len.toNat →
      ∃ r, exec .decCmd s = .next ⟨rest, s.given ++ [r]⟩ ∧ r = .msg (.motorCmd ⟨p.req.data.extractLsb' 0 16⟩) ∧
        responsePorts r = { zeroPorts with rTag := 1, rCmdv := p.req.data.extractLsb' 0 16 }) ∧
    (p.req.len.toNat < 2 → exec .decCmd s = .next ⟨rest, s.given ++ [.err .eLength]⟩)

/-- DEC_TLM: the four fields of the 64 data bits when 8 bytes are presented, `LEN` 9 to 15 read as 8, else E_LENGTH
(41_frame_codec.md R115). -/
def Obligations.DecTlmResult : Prop :=
  ∀ (s : State) (p : Presented) (rest : List Presented), s.pending = p :: rest →
    (8 ≤ p.req.len.toNat →
      ∃ r t, exec .decTlm s = .next ⟨rest, s.given ++ [r]⟩ ∧ r = .msg (.telemetry t) ∧ TelemetryOfData t p.req.data ∧
        responsePorts r = { zeroPorts with rTag := 0, rStatus := p.req.data.extractLsb' 0 24,
                                           rPosition := p.req.data.extractLsb' 24 16,
                                           rCurrent := p.req.data.extractLsb' 40 16, rTemp := t.temp }) ∧
    (p.req.len.toNat < 8 → exec .decTlm s = .next ⟨rest, s.given ++ [.err .eLength]⟩)

/-- Both decoders fail on length only and stay within their types' ranges (41_frame_codec.md R116). -/
def Obligations.DecodersTotal : Prop :=
  (∀ P : Payload, cmdDec P = .error .eLength ∧ P.length < 2 ∨ (∃ m, cmdDec P = .ok m) ∧ 2 ≤ P.length) ∧
  (∀ P : Payload, tlmDec P = .error .eLength ∧ P.length < 8 ∨
    (∃ t, tlmDec P = .ok t ∧ -50 ≤ t.temp.toInt ∧ t.temp.toInt ≤ 205) ∧ 8 ≤ P.length)

/-- Round trip, message to bytes to message, (1) and (2) (41_frame_codec.md R117). -/
def Obligations.MessageRoundTrip : Prop :=
  (∀ v : U16, cmdDec (cmdEnc v) = .ok ⟨v⟩) ∧
  (∀ (cfg : Cfg) (status : U24) (position current : U16) (t : I16), -50 ≤ t.toInt → t.toInt ≤ 205 →
    ∃ Q, tlmEnc cfg status position current t.toInt = .ok (Q, false) ∧ tlmDec Q = .ok ⟨status, position, current, t⟩)

/-- Round trip, bytes to message to bytes, the layouts as bijections, and the saturated round trip, (a) to (d)
(41_frame_codec.md R118). -/
def Obligations.PayloadRoundTrip : Prop :=
  (∀ P : Payload, P.length = 2 → ∃ m, cmdDec P = .ok m ∧ cmdEnc m.cmdValue = P) ∧
  (∀ m : MotorCmd, ∃! P : Payload, P.length = 2 ∧ cmdDec P = .ok m) ∧
  (∀ t : Telemetry, -50 ≤ t.temp.toInt → t.temp.toInt ≤ 205 → ∃! P : Payload, P.length = 8 ∧ tlmDec P = .ok t) ∧
  (∀ (cfg : Cfg) (P : Payload), P.length = 8 →
    ∃ t, tlmDec P = .ok t ∧ tlmEnc cfg t.status t.position t.current t.temp.toInt = .ok (P, false)) ∧
  (∀ P : Payload, 2 ≤ P.length → ∃ m, cmdDec P = .ok m ∧ cmdEnc m.cmdValue = P.take 2) ∧
  (∀ (cfg : Cfg) (status : U24) (position current : U16) (L : I16), cfg.tempPolicy = .saturate →
    ∃ Q sat t, tlmEnc cfg status position current L.toInt = .ok (Q, sat) ∧ tlmDec Q = .ok t ∧ t.status = status ∧
      t.position = position ∧ t.current = current ∧ t.temp.toInt = max (-50) (min 205 L.toInt))

/-- The Telemetry payload is the four MemWrite calls of R111, in increasing offset (41_frame_codec.md R111; 20_memory.md
R47). -/
def Obligations.TlmEncIsMemWrites : Prop :=
  ∀ (cfg : Cfg) (status : U24) (position current : U16) (L : Int) (Q : Payload) (sat : Bool),
    tlmEnc cfg status position current L = .ok (Q, sat) →
      Q.length = 8 ∧ ∃ tb : Byte, TempEncodes cfg.tempPolicy L tb sat ∧
        ((((memWrite [] 0 3 status.toNat).bind fun q => memWrite q 3 2 position.toNat).bind
            fun q => memWrite q 5 2 current.toNat).bind fun q => memWrite q 7 1 tb.toNat) = some Q

/-! The payload space. -/

/-- A payload on its ports: the effective length is `min(LEN, 8)`, byte `i` is lane `i`, the payload's number is the low
`8 * len` bits of DATA; on a response, lanes at or beyond the length are 0x00, and feeding the ports back gives the
payload (20_memory.md R41). -/
def Obligations.PayloadPortForm : Prop :=
  (∀ req : Request, (payloadOf req).length = min req.len.toNat 8 ∧
    (∀ i, i < min req.len.toNat 8 → (payloadOf req)[i]? = some (req.data.extractLsb' (8 * i) 8)) ∧
    number (payloadOf req) = req.data.toNat % 2 ^ (8 * min req.len.toNat 8)) ∧
  (∀ Q : Payload, Q.length ≤ 8 → (lenPort Q).toNat = Q.length ∧
    (∀ i, i < 8 → (dataPort Q).extractLsb' (8 * i) 8 = (Q[i]?).getD 0x00) ∧
    (∀ req : Request, req.len = lenPort Q → req.data = dataPort Q → payloadOf req = Q))

/-- Lanes at or beyond the effective length are ignored: two requests alike but for those lanes have equal responses to
DEC_CMD, DEC_TLM and CLASSIFY, in any state (20_memory.md R41, R45). -/
def Obligations.LanesBeyondLengthIgnored : Prop :=
  ∀ (s : State) (p : Presented) (rest : List Presented) (d : BitVec 64) (i : Instr), s.pending = p :: rest →
    (∀ k, k < 8 * min p.req.len.toNat 8 → d.getLsbD k = p.req.data.getLsbD k) →
    (i = .decCmd ∨ i = .decTlm ∨ i = .classify .extended ∨ i = .classify .standard) →
      ∃ r, exec i s = .next ⟨rest, s.given ++ [r]⟩ ∧
        exec i { s with pending := { p with req := { p.req with data := d } } :: rest } = .next ⟨rest, s.given ++ [r]⟩

/-- `field_get` after `field_put` gives the value put; a field that does not overlap it is unchanged, and so is the length
(20_memory.md R51). That a field outside the payload has no value before or after is the model's choice, log entry 10. -/
def Obligations.FieldPutThenGet : Prop :=
  ∀ (Q : Payload) (lsb w v : Nat), 1 ≤ w → w ≤ 32 → lsb + w ≤ 8 * Q.length → v < 2 ^ w →
    ∃ Q', fieldPut Q lsb w v = some Q' ∧ Q'.length = Q.length ∧ fieldGet Q' lsb w = some v ∧
      ∀ lsb2 w2 : Nat, lsb2 + w2 ≤ lsb ∨ lsb + w ≤ lsb2 → fieldGet Q' lsb2 w2 = fieldGet Q lsb2 w2

/-- On whole bytes the field primitive is MemRead and MemWrite, 1 to 4 bytes; bit `k` of a field is payload bit `lsb + k`, and
payload bit `k` is bit `k mod 8` of byte `k div 8` (20_memory.md R50, R51; 00_scope.md R12). -/
def Obligations.FieldsOnWholeBytes : Prop :=
  (∀ (P : Payload) (off n : Nat), 1 ≤ n → n ≤ 4 → off + n ≤ P.length →
    ∃ v, memRead P off n = some v ∧ fieldGet P (8 * off) (8 * n) = some v) ∧
  (∀ (Q : Payload) (off n v : Nat), 1 ≤ n → n ≤ 4 → off + n ≤ Q.length → v < 2 ^ (8 * n) →
    ∃ Q', memWrite Q off n v = some Q' ∧ fieldPut Q (8 * off) (8 * n) v = some Q') ∧
  (∀ (P : Payload) (lsb w : Nat), 1 ≤ w → w ≤ 32 → lsb + w ≤ 8 * P.length →
    ∃ v, fieldGet P lsb w = some v ∧ v < 2 ^ w ∧
      ∀ k, k < w → v.testBit k = ((P[(lsb + k) / 8]?).getD 0x00).getLsbD ((lsb + k) % 8)) ∧
  (∀ (P : Payload) (k : Nat) (b : Byte), P[k / 8]? = some b → fieldGet P k 1 = some (b.getLsbD (k % 8)).toNat)

/-- MemRead is the sum of its bytes, each at its place, and on a request it is a slice of DATA (00_scope.md R12; 20_memory.md
R46). A read of no byte is the empty sum, the model's reading of R12, log entry 10. -/
def Obligations.MemReadIsDataSlice : Prop :=
  (∀ (P : Payload) (off n : Nat), off + n ≤ P.length →
    memRead P off n = some (((List.range n).map fun k => ((P[off + k]?).getD 0x00).toNat * 2 ^ (8 * k)).sum)) ∧
  (∀ (req : Request) (off n : Nat), off + n ≤ min req.len.toNat 8 →
    memRead (payloadOf req) off n = some (req.data.toNat / 2 ^ (8 * off) % 2 ^ (8 * n)))

/-- MemWrite puts the `n` low bytes of `v` at `off`, least significant first, and leaves every other byte as it was
(00_scope.md R12; 20_memory.md R47). That it has a value where `off` is at most the length built so far, and that it may write
no byte, are the model's choices, log entry 10. -/
def Obligations.MemWriteSetsBytes : Prop :=
  ∀ (Q : Payload) (off n v : Nat), off ≤ Q.length →
    ∃ Q', memWrite Q off n v = some Q' ∧ Q'.length = max Q.length (off + n) ∧
      (∀ k, k < n → Q'[off + k]? = some (BitVec.ofNat 8 (v / 2 ^ (8 * k)))) ∧
      ∀ j, j < off ∨ off + n ≤ j → Q'[j]? = Q[j]?

/-- The descriptors of R51 are the fields that the decoders read (20_memory.md R48, R49, R51). -/
def Obligations.LayoutDescriptors : Prop :=
  (∀ (P : Payload) (m : MotorCmd), cmdDec P = .ok m → cmdValueField.logical P = some (m.cmdValue.toNat : Int)) ∧
  (∀ (P : Payload) (t : Telemetry), tlmDec P = .ok t →
    statusField.logical P = some (t.status.toNat : Int) ∧ positionField.logical P = some (t.position.toNat : Int) ∧
    currentField.logical P = some (t.current.toNat : Int) ∧ tempField.logical P = some t.temp.toInt)

/-! The Message Dispatcher. -/

/-- CLASSIFY: the standard form is unclassifiable unless routed; the command identifier is tested first, then the
telemetry identifier, all 32 bits; then the length (42_dispatcher.md R131, R133). -/
def Obligations.ClassifyResult : Prop :=
  ∀ (s : State) (p : Presented) (rest : List Presented) (ext : Form), s.pending = p :: rest →
    ∃ r, exec (.classify ext) s = .next ⟨rest, s.given ++ [r]⟩ ∧
      if ext = .standard ∧ p.cfg.stdRoute = false then r = .msg .unsupported
      else if p.req.id = p.cfg.cmdId then
        if p.req.len.toNat < 2 then r = .err .eLength else r = .msg (.motorCmd ⟨p.req.data.extractLsb' 0 16⟩)
      else if p.req.id = p.cfg.tlmId then
        if p.req.len.toNat < 8 then r = .err .eLength
        else ∃ t, r = .msg (.telemetry t) ∧ TelemetryOfData t p.req.data
      else r = .msg .unsupported

/-- An unclassifiable identifier, one not configured or a standard one not routed, gives Unsupported, `ST = 0`, `R_TAG = 2`, every other port 0, whatever the length
and the payload (42_dispatcher.md R134). -/
def Obligations.UnknownIdentifierUnsupported : Prop :=
  ∀ (s : State) (p : Presented) (rest : List Presented) (ext : Form), s.pending = p :: rest →
    ((p.req.id ≠ p.cfg.cmdId ∧ p.req.id ≠ p.cfg.tlmId) ∨ (ext = .standard ∧ p.cfg.stdRoute = false)) →
      ∃ r, exec (.classify ext) s = .next ⟨rest, s.given ++ [r]⟩ ∧ r = .msg .unsupported ∧ isError r = false ∧
        responsePorts r = { zeroPorts with rTag := 2 }

/-- With valid extended configured identifiers, an inbound value above 0x1FFFFFFF is Unsupported (42_dispatcher.md R132,
the consequence it derives). -/
def Obligations.OverwideIdentifierUnsupported : Prop :=
  ∀ (s : State) (p : Presented) (rest : List Presented) (ext : Form), s.pending = p :: rest →
    p.cfg.cmdId.toNat ≤ 0x1FFFFFFF → p.cfg.tlmId.toNat ≤ 0x1FFFFFFF → 0x1FFFFFFF < p.req.id.toNat →
      exec (.classify ext) s = .next ⟨rest, s.given ++ [.msg .unsupported]⟩

/-- `id_valid` by limit and by bits, and the operations that answer E_ID_RANGE when it is false (42_dispatcher.md R140,
30_encoding.md R76). -/
def Obligations.IdentifierValidity : Prop :=
  (∀ (ext : Form) (raw : U32), (idValid ext raw = true ↔ FitsForm ext raw) ∧
    (idValid ext raw = true ↔
      (ext = .extended ∧ raw.extractLsb' 29 3 = 0) ∨ (ext = .standard ∧ raw.extractLsb' 11 21 = 0))) ∧
  (∀ (s : State) (p : Presented) (rest : List Presented) (ext : Form), s.pending = p :: rest →
    idValid ext p.req.id = false →
      exec (.buildTlm ext) s = .next ⟨rest, s.given ++ [.err .eIdRange]⟩ ∧
      exec (.buildCmd ext) s = .next ⟨rest, s.given ++ [.err .eIdRange]⟩ ∧
      exec (.checkId ext) s = .next ⟨rest, s.given ++ [.err .eIdRange]⟩)

/-- BUILD.TLM: the frame of ENCODE.TLM's bytes and the identifier unchanged; E_ID_RANGE first, then E_TEMP_RANGE
(42_dispatcher.md R136). -/
def Obligations.BuildTlmResult : Prop :=
  ∀ (s : State) (p : Presented) (rest : List Presented) (ext : Form), s.pending = p :: rest →
    (FitsForm ext p.req.id → ¬ (OutOfRange p.req.temp.toInt ∧ p.cfg.tempPolicy = .reject) →
      ∃ r tb sat, exec (.buildTlm ext) s = .next ⟨rest, s.given ++ [r]⟩ ∧
        TempEncodes p.cfg.tempPolicy p.req.temp.toInt tb sat ∧
        r = .frame ext p.req.id [p.req.status.extractLsb' 0 8, p.req.status.extractLsb' 8 8, p.req.status.extractLsb' 16 8,
          p.req.position.extractLsb' 0 8, p.req.position.extractLsb' 8 8,
          p.req.current.extractLsb' 0 8, p.req.current.extractLsb' 8 8, tb] sat ∧
        responsePorts r = { zeroPorts with sat := BitVec.ofBool sat, rExt := extWire ext, rId := p.req.id, rLen := 8,
                                           rData := tb ++ p.req.current ++ p.req.position ++ p.req.status }) ∧
    (¬ FitsForm ext p.req.id → exec (.buildTlm ext) s = .next ⟨rest, s.given ++ [.err .eIdRange]⟩) ∧
    (FitsForm ext p.req.id → OutOfRange p.req.temp.toInt → p.cfg.tempPolicy = .reject →
      exec (.buildTlm ext) s = .next ⟨rest, s.given ++ [.err .eTempRange]⟩)

/-- BUILD.CMD (42_dispatcher.md R137). -/
def Obligations.BuildCmdResult : Prop :=
  ∀ (s : State) (p : Presented) (rest : List Presented) (ext : Form), s.pending = p :: rest →
    (FitsForm ext p.req.id →
      ∃ r, exec (.buildCmd ext) s = .next ⟨rest, s.given ++ [r]⟩ ∧
        r = .frame ext p.req.id [p.req.cmdv.extractLsb' 0 8, p.req.cmdv.extractLsb' 8 8] false ∧
        responsePorts r = { zeroPorts with rExt := extWire ext, rId := p.req.id, rLen := 2,
                                           rData := p.req.cmdv.setWidth 64 }) ∧
    (¬ FitsForm ext p.req.id → exec (.buildCmd ext) s = .next ⟨rest, s.given ++ [.err .eIdRange]⟩)

/-- BUILD.UNS answers NoFrame whatever the identifier (42_dispatcher.md R138). -/
def Obligations.BuildUnsResult : Prop :=
  ∀ (s : State) (p : Presented) (rest : List Presented) (ext : Form), s.pending = p :: rest →
    ∃ r, exec (.buildUns ext) s = .next ⟨rest, s.given ++ [r]⟩ ∧ r = .noFrame ∧
      responsePorts r = { zeroPorts with st := 1 }

/-- CHECK_ID (42_dispatcher.md R141). -/
def Obligations.CheckIdResult : Prop :=
  ∀ (s : State) (p : Presented) (rest : List Presented) (ext : Form), s.pending = p :: rest →
    (FitsForm ext p.req.id →
      ∃ r, exec (.checkId ext) s = .next ⟨rest, s.given ++ [r]⟩ ∧ r = .idOk ext p.req.id ∧
        responsePorts r = { zeroPorts with rExt := extWire ext, rId := p.req.id }) ∧
    (¬ FitsForm ext p.req.id → exec (.checkId ext) s = .next ⟨rest, s.given ++ [.err .eIdRange]⟩)

/-- Loopback: what BUILD makes for the configured identifiers, its ports fed to CLASSIFY, comes back as the message; a
frame for any other identifier is Unsupported (42_dispatcher.md R142). -/
def Obligations.Loopback : Prop :=
  ∀ cfg : Cfg, cfg.cmdId.toNat ≤ 0x1FFFFFFF → cfg.tlmId.toNat ≤ 0x1FFFFFFF → cfg.cmdId ≠ cfg.tlmId →
    (∀ build : Request, decode build.cw = .instr (.buildCmd .extended) → build.id = cfg.cmdId →
      ∃ Q, block cfg build = .frame .extended cfg.cmdId Q false ∧
        ∀ inbound : Request, decode inbound.cw = .instr (.classify .extended) → inbound.id = cfg.cmdId →
          inbound.len = (responsePorts (block cfg build)).rLen → inbound.data = (responsePorts (block cfg build)).rData →
            block cfg inbound = .msg (.motorCmd ⟨build.cmdv⟩)) ∧
    (∀ build : Request, decode build.cw = .instr (.buildTlm .extended) → build.id = cfg.tlmId →
      -50 ≤ build.temp.toInt → build.temp.toInt ≤ 205 →
      ∃ Q, block cfg build = .frame .extended cfg.tlmId Q false ∧
        ∀ inbound : Request, decode inbound.cw = .instr (.classify .extended) → inbound.id = cfg.tlmId →
          inbound.len = (responsePorts (block cfg build)).rLen → inbound.data = (responsePorts (block cfg build)).rData →
            block cfg inbound = .msg (.telemetry ⟨build.status, build.position, build.current, build.temp⟩)) ∧
    (∀ (build : Request) (ext : Form) (raw : U32) (Q : Payload) (sat : Bool), block cfg build = .frame ext raw Q sat →
      raw ≠ cfg.cmdId → raw ≠ cfg.tlmId →
        ∀ inbound : Request, decode inbound.cw = .instr (.classify ext) → inbound.id = raw →
          block cfg inbound = .msg .unsupported)

/-! Responses, errors and the whole machine. -/

/-- How each response value stands on the ports; every port not named is 0 (30_encoding.md R73). -/
def Obligations.ResponsePortsTable : Prop :=
  (∀ (Q : Payload) (sat : Bool), Q.length ≤ 8 →
    responsePorts (.bytes Q sat) = { zeroPorts with st := 0, sat := BitVec.ofBool sat, rLen := BitVec.ofNat 4 Q.length,
                                                    rData := (responsePorts (.bytes Q sat)).rData } ∧
    ∀ i, i < 8 → (responsePorts (.bytes Q sat)).rData.extractLsb' (8 * i) 8 = (Q[i]?).getD 0x00) ∧
  (∀ v, responsePorts (.u32 v) = { zeroPorts with st := 0, rVal := v }) ∧
  (∀ v, responsePorts (.i16 v) = { zeroPorts with st := 0, rTemp := v }) ∧
  (∀ t, responsePorts (.msg (.telemetry t)) =
    { zeroPorts with st := 0, rTag := 0, rStatus := t.status, rPosition := t.position, rCurrent := t.current, rTemp := t.temp }) ∧
  (∀ m, responsePorts (.msg (.motorCmd m)) = { zeroPorts with st := 0, rTag := 1, rCmdv := m.cmdValue }) ∧
  responsePorts (.msg .unsupported) = { zeroPorts with st := 0, rTag := 2 } ∧
  (∀ ext raw (Q : Payload) (sat : Bool), Q.length ≤ 8 → responsePorts (.frame ext raw Q sat) =
    { responsePorts (.bytes Q sat) with rExt := extWire ext, rId := raw }) ∧
  responsePorts .noFrame = { zeroPorts with st := 1 } ∧
  (∀ ext raw, responsePorts (.idOk ext raw) = { zeroPorts with st := 0, rExt := extWire ext, rId := raw }) ∧
  (responsePorts (.err .eLength) = { zeroPorts with st := 2 } ∧ responsePorts (.err .eTempRange) = { zeroPorts with st := 3 } ∧
    responsePorts (.err .eIdRange) = { zeroPorts with st := 4 } ∧ responsePorts (.err .eIllegal) = { zeroPorts with st := 5 }) ∧
  zeroPorts = ⟨0, 0, 0, 0, 0, 0, 0, 0, 0, 0, 0, 0, 0⟩ ∧ extWire .extended = 1 ∧ extWire .standard = 0

/-- The status codes 6 and 7 and the tag 3 are never produced (30_encoding.md R64, R72). -/
def Obligations.ReservedCodesNeverProduced : Prop :=
  ∀ r : Response, (responsePorts r).st ≠ 6 ∧ (responsePorts r).st ≠ 7 ∧ (responsePorts r).rTag ≠ 3

/-- Every error code, with exactly the causes and the operations of the table (60_exceptions.md R151). -/
def Obligations.ErrorCauses : Prop :=
  ∀ (s : State) (p : Presented) (rest : List Presented), s.pending = p :: rest →
    ∃ r, step s = .next ⟨rest, s.given ++ [r]⟩ ∧
      (r = .err .eIllegal ↔ ∃ why, decode p.req.cw = .illegal why) ∧
      (r = .err .eIdRange ↔ ∃ ext, (decode p.req.cw = .instr (.buildTlm ext) ∨ decode p.req.cw = .instr (.buildCmd ext) ∨
        decode p.req.cw = .instr (.checkId ext)) ∧ ¬ FitsForm ext p.req.id) ∧
      (r = .err .eTempRange ↔ OutOfRange p.req.temp.toInt ∧ p.cfg.tempPolicy = .reject ∧
        (decode p.req.cw = .instr .encTemp ∨ decode p.req.cw = .instr .encodeTlm ∨
          ∃ ext, decode p.req.cw = .instr (.buildTlm ext) ∧ FitsForm ext p.req.id)) ∧
      (r = .err .eLength ↔ (decode p.req.cw = .instr .decCmd ∧ p.req.len.toNat < 2) ∨
        (decode p.req.cw = .instr .decTlm ∧ p.req.len.toNat < 8) ∨
        ∃ ext, decode p.req.cw = .instr (.classify ext) ∧ (ext = .extended ∨ p.cfg.stdRoute = true) ∧
          ((p.req.id = p.cfg.cmdId ∧ p.req.len.toNat < 2) ∨
           (p.req.id ≠ p.cfg.cmdId ∧ p.req.id = p.cfg.tlmId ∧ p.req.len.toNat < 8)))

/-- The order of the tests, from the bits of the command word (60_exceptions.md R153). -/
def Obligations.PriorityOfConditions : Prop :=
  ∀ (s : State) (p : Presented) (rest : List Presented) (op mtag : Nat) (ext : Form), s.pending = p :: rest →
    op = p.req.cw.toNat % 16 → mtag = p.req.cw.toNat / 16 % 4 → (ext = .extended ↔ p.req.cw.toNat / 64 = 1) →
    ∃ r, step s = .next ⟨rest, s.given ++ [r]⟩ ∧
      if 10 ≤ op ∨ ((op = 4 ∨ op = 8) ∧ mtag = 3) then r = .err .eIllegal
      else if (op = 4 ∨ op = 8) ∧ mtag = 2 then r = .noFrame
      else if (op = 8 ∨ op = 9) ∧ ¬ FitsForm ext p.req.id then r = .err .eIdRange
      else if op = 7 ∧ ((ext = .standard ∧ p.cfg.stdRoute = false) ∨ (p.req.id ≠ p.cfg.cmdId ∧ p.req.id ≠ p.cfg.tlmId)) then
        r = .msg .unsupported
      else if ((op = 5 ∨ (op = 7 ∧ p.req.id = p.cfg.cmdId)) ∧ p.req.len.toNat < 2) ∨
          ((op = 6 ∨ (op = 7 ∧ p.req.id ≠ p.cfg.cmdId)) ∧ p.req.len.toNat < 8) then r = .err .eLength
      else if (op = 2 ∨ ((op = 4 ∨ op = 8) ∧ mtag = 0)) ∧ OutOfRange p.req.temp.toInt ∧ p.cfg.tempPolicy = .reject then
        r = .err .eTempRange
      else isError r = false ∧ r ≠ .noFrame ∧ r ≠ .msg .unsupported

/-- `SAT` is 1 exactly when ENC_TEMP, ENCODE.TLM or BUILD.TLM replaced a temperature out of range under SATURATE; a
BUILD.TLM with a bad identifier encodes nothing (10_state.md R23; 60_exceptions.md R153). -/
def Obligations.SaturationFlag : Prop :=
  ∀ (i : Instr) (s : State) (p : Presented) (rest : List Presented), s.pending = p :: rest →
    ∃ r, exec i s = .next ⟨rest, s.given ++ [r]⟩ ∧
      ((responsePorts r).sat = 1 ↔ OutOfRange p.req.temp.toInt ∧ p.cfg.tempPolicy = .saturate ∧
        (i = .encTemp ∨ i = .encodeTlm ∨ ∃ ext, i = .buildTlm ext ∧ FitsForm ext p.req.id))

/-- The frame of every operation: it takes the oldest request, leaves the others, and adds one response after all those
given before (60_exceptions.md R154; 70_reset_and_hazards.md R177). That it changes nothing with no request in flight is the
model's choice, log entry 4, and no part of these rules. -/
def Obligations.ExecFrame : Prop :=
  ∀ (i : Instr) (s t : State), exec i s = .next t →
    t.pending = s.pending.tail ∧ s.given <+: t.given ∧ (t.given.length = s.given.length + min s.pending.length 1)

/-- `exec` is a total function of Cfg and request: each gives exactly one response, the same in every state that has that
request oldest (10_state.md R20; 60_exceptions.md R158). -/
def Obligations.ResponseIsFunctionOfRequest : Prop :=
  ∀ (cfg : Cfg) (req : Request), ∃ r, (∀ (s : State) (rest : List Presented), s.pending = ⟨cfg, req⟩ :: rest →
      step s = .next ⟨rest, s.given ++ [r]⟩) ∧ r = block cfg req

/-- No step and no operation stops: the block never traps, halts, blocks or hangs (60_exceptions.md R158). That it
answers the same state with no request in flight is the model's choice, log entry 4. -/
def Obligations.NeverStops : Prop :=
  ∀ s : State, (∃ t, step s = .next t) ∧ ∀ (i : Instr), ∃ t, exec i s = .next t

/-- A run's result is the list of responses, response `k` that of request `k` under its own Cfg, whatever was given before
(70_reset_and_hazards.md R181). A number of steps beyond the requests in flight changes nothing more: that case is the
model's choice, log entry 4, and no part of R181. -/
def Obligations.RunGivesTheResponses : Prop :=
  ∀ (s : State) (k : Nat), runSteps k s =
    .next (State.mk (s.pending.drop k) (s.given ++ (s.pending.take k).map fun p => block p.cfg p.req))

/-- On one port responses are given in the order of their requests, one per request; a reset discards those unanswered
(70_reset_and_hazards.md R177). That a host reset keeps the record of the responses given (log entry 7) and that steps with
no request in flight change nothing (log entry 4) are the model's choices and no part of R177. -/
def Obligations.ResponsesKeepRequestOrder : Prop :=
  (∀ (s : State) (ps : List Presented), runSteps (s.pending.length + ps.length) (ps.foldl State.present s) =
    .next (State.mk [] (s.given ++ (s.pending ++ ps).map fun p => block p.cfg p.req))) ∧
  (∀ (s : State) (k : Nat), runSteps k s.hostReset = .next (State.mk [] s.given))

/-- Several requesters on one port: each gets, in order, the responses its own requests would get alone
(20_memory.md R52; 60_exceptions.md R164). -/
def Obligations.RequestersShareAPort : Prop :=
  ∀ (tagged : List (Nat × Presented)) (n : Nat) (s : State), s.pending = tagged.map (fun x => x.2) → s.given = [] →
    ∃ t : State, runSteps tagged.length s = .next t ∧
      ((((tagged.map fun x => x.1).zip t.given).filter fun x => x.1 == n).map fun x => x.2) =
        ((tagged.filter fun x => x.1 == n).map fun x => block x.2.cfg x.2.req)

/-- Several instances under any schedule: each answers its own requests in order, and no other instance changes that
(20_memory.md R52; 60_exceptions.md R164). The schedule is the model's form, log entry 12; a turn that finds an instance with
no request in flight changes nothing, log entry 4. -/
def Obligations.InstancesDoNotInterfere : Prop :=
  ∀ (sched : List Nat) (sys : List State) (k : Nat) (s : State), sys[k]? = some s →
    (runSchedule sched sys)[k]? = some (State.mk (s.pending.drop (sched.count k))
      (s.given ++ (s.pending.take (sched.count k)).map fun p => block p.cfg p.req))

/-- A failed request leaves no trace: with it or without it, the requests before and after have the same responses
(60_exceptions.md R154, R155). -/
def Obligations.ErrorsLeaveOthersUnaffected : Prop :=
  ∀ (before after : List Presented) (bad : Presented) (g : List Response),
    isError (block bad.cfg bad.req) = true →
    ∃ rs rs' : List Response, rs.length = before.length ∧ rs'.length = after.length ∧
      runSteps (before.length + after.length) (State.mk (before ++ after) g) =
        .next (State.mk [] (g ++ rs ++ rs')) ∧
      runSteps (before.length + 1 + after.length) (State.mk (before ++ bad :: after) g) =
        .next (State.mk [] (g ++ rs ++ [block bad.cfg bad.req] ++ rs'))

/-- Every step keeps the invariant: every response given is well-formed (30_encoding.md R70, R72; 10_state.md R23, R30;
42_dispatcher.md R140). The record of responses is the model's, log entry 3, and a step with no request in flight leaves it as
it is, log entry 4. -/
def Obligations.StepKeepsInvariant : Prop :=
  ∀ s t : State, GivenWellFormed s → step s = .next t → GivenWellFormed t

/-- The invariant holds after reset, where nothing is in flight and no response has been given (10_state.md R36). That the
record of responses is empty there is the model's choice, log entry 3. -/
def Obligations.ResetMeetsInvariant : Prop :=
  GivenWellFormed State.reset ∧ State.reset.pending = [] ∧ State.reset.lastResponsePorts = none

/-- After a reset the unanswered requests are gone, and the first request presented is executed exactly as any other
(70_reset_and_hazards.md R170, R171). That a host reset keeps the record of the responses given (log entry 7) and that the
record is empty in the reset state (log entry 3) are the model's choices and no part of these rules. -/
def Obligations.FirstRequestAfterReset : Prop :=
  (∀ (s : State) (p : Presented), step (s.hostReset.present p) = .next ⟨[], s.given ++ [block p.cfg p.req]⟩) ∧
  (∀ p : Presented, step (State.reset.present p) = .next ⟨[], [block p.cfg p.req]⟩)

/-- What the response ports hold once a request has been answered is that response (30_encoding.md R73; 10_state.md R36). -/
def Obligations.PortsHoldTheResponse : Prop :=
  ∀ (s : State) (p : Presented) (rest : List Presented), s.pending = p :: rest →
    ∃ t, step s = .next t ∧ t.lastResponsePorts = some (responsePorts (block p.cfg p.req))

/-- Every line of text that assembles is a request for the operation of its mnemonic, and R78's own example assembles as it
says (30_encoding.md R78). -/
def Obligations.TextAssembles : Prop :=
  (∀ (m : Lexeme) (ops : List Operand) (req : Request), requestOfLine m ops = some req →
    ∃ i, decode req.cw = .instr i ∧ (mnemonic i).toList = m) ∧
  lineOf "CLASSIFY ext, id=0x03, [0x00, 0x80]" =
    some (.request { zeroRequest with cw := 0x47, id := 0x00000003, len := 2, data := 0x0000000000008000 })
end

