-- ==== Sys2Proof/Laws/Payload.lean ====
section
/-! SUPPORT. Payloads as numbers and as lanes (20_memory.md R41, R46, R50). -/

namespace Sys2Proof.Machine

@[simp] theorem lanes_length (d : BitVec 64) : (lanes d).length = 8 := rfl

theorem effLen_le (len : BitVec 4) : effLen len ≤ 8 := Nat.min_le_right _ _

theorem effLen_eq_of_le {len : BitVec 4} (h : len.toNat ≤ 8) : effLen len = len.toNat := Nat.min_eq_left h

/-- `LEN` values 9 to 15 are read as 8 (30_encoding.md R66). -/
theorem effLen_eq_eight {len : BitVec 4} (h : 8 ≤ len.toNat) : effLen len = 8 := Nat.min_eq_right h

@[simp] theorem payloadOf_length (req : Request) : (payloadOf req).length = effLen req.len := by
  simp [payloadOf, effLen_le]

@[simp] theorem number_nil : number [] = 0 := rfl
@[simp] theorem number_cons (b : Byte) (P : Payload) : number (b :: P) = b.toNat + 256 * number P := rfl

theorem number_lt (P : Payload) : number P < 2 ^ (8 * P.length) := by
  induction P with
  | nil => simp
  | cons b P ih =>
    have hb := b.isLt
    have : (2 : Nat) ^ (8 * (P.length + 1)) = 256 * 2 ^ (8 * P.length) := by
      rw [Nat.mul_add, Nat.pow_add]; omega
    simp only [number_cons, List.length_cons, this]
    omega

theorem number_append (P Q : Payload) : number (P ++ Q) = number P + 2 ^ (8 * P.length) * number Q := by
  induction P with
  | nil => simp
  | cons b P ih =>
    have : (2 : Nat) ^ (8 * (P.length + 1)) = 256 * 2 ^ (8 * P.length) := by
      rw [Nat.mul_add, Nat.pow_add]; omega
    simp only [List.cons_append, number_cons, List.length_cons, this, ih]
    ring

@[simp] theorem leBytes_length (n v : Nat) : (leBytes n v).length = n := by
  induction n generalizing v with
  | zero => rfl
  | succ n ih => simp [leBytes, ih]

/-- The bytes of a number are the number, as far as they reach. -/
theorem number_leBytes (n v : Nat) : number (leBytes n v) = v % 2 ^ (8 * n) := by
  induction n generalizing v with
  | zero => simp [leBytes, Nat.mod_one]
  | succ n ih =>
    have e : (2 : Nat) ^ (8 * (n + 1)) = 256 * 2 ^ (8 * n) := by
      rw [Nat.mul_add, Nat.pow_add]; omega
    rw [leBytes, number_cons, ih, BitVec.toNat_ofNat, e, Nat.mod_mul]

/-- A payload is the bytes of its number. -/
theorem leBytes_number (P : Payload) : leBytes P.length (number P) = P := by
  induction P with
  | nil => rfl
  | cons b P ih =>
    have hb := b.isLt
    have h1 : (b.toNat + 256 * number P) / 256 = number P := by omega
    have h2 : BitVec.ofNat 8 (b.toNat + 256 * number P) = b := by
      apply BitVec.eq_of_toNat_eq
      rw [BitVec.toNat_ofNat]
      omega
    simp [leBytes, h1, h2, ih]

/-- Two payloads of one length with the same number are the same payload. -/
theorem number_injective {P Q : Payload} (hl : P.length = Q.length) (hn : number P = number Q) : P = Q := by
  rw [← leBytes_number P, ← leBytes_number Q, hl, hn]

/-- Bit `k` of a payload's number is bit `k mod 8` of its byte `k div 8` (20_memory.md R50). -/
theorem number_testBit (P : Payload) (k : Nat) :
    (number P).testBit k = ((P[k / 8]?).getD 0x00).getLsbD (k % 8) := by
  induction P generalizing k with
  | nil => simp
  | cons b P ih =>
    have e : number (b :: P) = b.toNat + 2 ^ 8 * number P := rfl
    rw [e, Nat.add_comm, Nat.testBit_two_pow_mul_add _ b.isLt]
    by_cases hk : k < 8
    · have h1 : k / 8 = 0 := by omega
      have h2 : k % 8 = k := by omega
      simp [hk, h1, h2, BitVec.testBit_toNat]
    · have h1 : k / 8 = (k - 8) / 8 + 1 := by omega
      have h2 : k % 8 = (k - 8) % 8 := by omega
      simp [hk, ih, h1, h2]

/-- Byte `i` of a data port is its lane `i` (20_memory.md R41). -/
theorem lanes_get (d : BitVec 64) {i : Nat} (h : i < 8) : (lanes d)[i]? = some (d.extractLsb' (8 * i) 8) := by
  rcases i with _ | _ | _ | _ | _ | _ | _ | _ | i <;> first | rfl | omega

/-- The low lanes of a data port are its low bits (20_memory.md R41). -/
theorem number_take_lanes (d : BitVec 64) {n : Nat} (h : n ≤ 8) :
    number ((lanes d).take n) = d.toNat % 2 ^ (8 * n) := by
  have := d.isLt
  rcases n with _ | _ | _ | _ | _ | _ | _ | _ | _ | n
  · simp [Nat.mod_one]
  all_goals first
    | omega
    | (simp only [lanes, lane, List.take_succ_cons, List.take_zero, number_cons, number_nil, BitVec.extractLsb'_toNat,
        Nat.shiftRight_eq_div_pow]
       simp
       omega)
    | (simp only [lanes, lane, List.take_succ_cons, List.take_zero, number_cons, number_nil, BitVec.extractLsb'_toNat,
        Nat.shiftRight_eq_div_pow]
       simp)

/-- The number of some bytes of a payload is a slice of its number (20_memory.md R46). -/
theorem number_slice {P : Payload} {off n : Nat} (h : off + n ≤ P.length) :
    number ((P.drop off).take n) = number P / 2 ^ (8 * off) % 2 ^ (8 * n) := by
  have e1 : (P.take off).length = off := by simp; omega
  have e2 : ((P.drop off).take n).length = n := by simp; omega
  have l1 := number_lt (P.take off)
  have l2 := number_lt ((P.drop off).take n)
  have hd : number P = number (P.take off) + 2 ^ (8 * off) * number (P.drop off) := by
    conv_lhs => rw [← List.take_append_drop off P, number_append, e1]
  have ht : number (P.drop off) = number ((P.drop off).take n) + 2 ^ (8 * n) * number ((P.drop off).drop n) := by
    conv_lhs => rw [← List.take_append_drop n (P.drop off), number_append, e2]
  rw [e1] at l1
  rw [e2] at l2
  rw [hd, Nat.add_mul_div_left _ _ (by positivity), Nat.div_eq_of_lt l1, Nat.zero_add, ht, Nat.add_mul_mod_self_left,
    Nat.mod_eq_of_lt l2]

/-- Byte `k` of the low bytes of a value (20_memory.md R47). -/
theorem leBytes_get {n k : Nat} (v : Nat) (h : k < n) :
    (leBytes n v)[k]? = some (BitVec.ofNat 8 (v / 2 ^ (8 * k))) := by
  induction n generalizing v k with
  | zero => omega
  | succ n ih =>
    rcases k with _ | k
    · simp [leBytes]
    · simp only [leBytes, List.getElem?_cons_succ, ih _ (by omega : k < n), Nat.mul_add, Nat.pow_add,
        Nat.div_div_eq_div_mul]
      congr 3
      ring

end Sys2Proof.Machine
end

