-- ==== Sys2Proof/Laws/Codec.lean ====
section
/-! SUPPORT. What the shared functions of the Field Transcoder, the Frame Codec and the Message Dispatcher answer, case by
case (40_field_transcoder.md, 41_frame_codec.md, 42_dispatcher.md). -/

namespace Sys2Proof.Machine

/-- In range the byte is `L + 50` (40_field_transcoder.md R96). -/
theorem tempEnc_inRange {cfg : Cfg} {L : Int} (h : -50 ≤ L ∧ L ≤ 205) :
    tempEnc cfg L = .ok (BitVec.ofInt 8 (L + 50), false) := by
  simp [tempEnc, tempMin, tempMax, tempBias, h.1, h.2]

theorem tempEnc_below {cfg : Cfg} {L : Int} (hp : cfg.tempPolicy = .saturate) (h : L < -50) :
    tempEnc cfg L = .ok (0x00, true) := by
  have : ¬ (-50 ≤ L ∧ L ≤ 205) := by omega
  simp [tempEnc, tempMin, tempMax, this, hp, h]

theorem tempEnc_above {cfg : Cfg} {L : Int} (hp : cfg.tempPolicy = .saturate) (h : 205 < L) :
    tempEnc cfg L = .ok (0xFF, true) := by
  have h1 : ¬ (-50 ≤ L ∧ L ≤ 205) := by omega
  have h2 : ¬ (L < -50) := by omega
  simp [tempEnc, tempMin, tempMax, h1, hp, h2]

theorem tempEnc_reject {cfg : Cfg} {L : Int} (hp : cfg.tempPolicy = .reject) (h : L < -50 ∨ 205 < L) :
    tempEnc cfg L = .error .eTempRange := by
  have h1 : ¬ (-50 ≤ L ∧ L ≤ 205) := by omega
  simp [tempEnc, tempMin, tempMax, h1, hp]

/-- Everything `temp_enc` can answer. -/
theorem tempEnc_cases (cfg : Cfg) (L : Int) :
    (-50 ≤ L ∧ L ≤ 205 ∧ tempEnc cfg L = .ok (BitVec.ofInt 8 (L + 50), false)) ∨
    (L < -50 ∧ cfg.tempPolicy = .saturate ∧ tempEnc cfg L = .ok (0x00, true)) ∨
    (205 < L ∧ cfg.tempPolicy = .saturate ∧ tempEnc cfg L = .ok (0xFF, true)) ∨
    ((L < -50 ∨ 205 < L) ∧ cfg.tempPolicy = .reject ∧ tempEnc cfg L = .error .eTempRange) := by
  rcases hp : cfg.tempPolicy with _ | _
  · by_cases h1 : L < -50
    · exact .inr (.inl ⟨h1, rfl, tempEnc_below hp h1⟩)
    by_cases h2 : 205 < L
    · exact .inr (.inr (.inl ⟨h2, rfl, tempEnc_above hp h2⟩))
    · exact .inl ⟨by omega, by omega, tempEnc_inRange (by omega)⟩
  · by_cases h : L < -50 ∨ 205 < L
    · exact .inr (.inr (.inr ⟨h, rfl, tempEnc_reject hp h⟩))
    · exact .inl ⟨by omega, by omega, tempEnc_inRange (by omega)⟩

/-- `tlm_enc` where its temperature encodes (41_frame_codec.md R111). -/
theorem tlmEnc_ok {cfg : Cfg} {status : U24} {position current : U16} {L : Int} {tb : Byte} {sat : Bool}
    (h : tempEnc cfg L = .ok (tb, sat)) :
    tlmEnc cfg status position current L =
      .ok (u24Enc status ++ le16Enc position ++ le16Enc current ++ [tb], sat) := by
  simp [tlmEnc, h]

theorem tlmEnc_error {cfg : Cfg} {status : U24} {position current : U16} {L : Int} {code : ErrorCode}
    (h : tempEnc cfg L = .error code) : tlmEnc cfg status position current L = .error code := by
  simp [tlmEnc, h]

/-- `cmd_dec` fails on length only (41_frame_codec.md R114). -/
theorem cmdDec_short {P : Payload} (h : P.length < 2) : cmdDec P = .error .eLength := by
  rcases P with _ | ⟨b0, _ | ⟨b1, rest⟩⟩
  · rfl
  · rfl
  · simp at h

theorem cmdDec_long {P : Payload} (h : 2 ≤ P.length) : ∃ m, cmdDec P = .ok m := by
  rcases P with _ | ⟨b0, _ | ⟨b1, rest⟩⟩
  · simp at h
  · simp at h
  · exact ⟨_, rfl⟩

/-- `tlm_dec` fails on length only (41_frame_codec.md R115). -/
theorem tlmDec_short {P : Payload} (h : P.length < 8) : tlmDec P = .error .eLength := by
  unfold tlmDec
  split
  · simp at h; omega
  · rfl

theorem tlmDec_long {P : Payload} (h : 8 ≤ P.length) : ∃ t, tlmDec P = .ok t := by
  rcases P with _ | ⟨b0, _ | ⟨b1, _ | ⟨b2, _ | ⟨b3, _ | ⟨b4, _ | ⟨b5, _ | ⟨b6, _ | ⟨b7, rest⟩⟩⟩⟩⟩⟩⟩⟩
  all_goals first
    | exact ⟨_, rfl⟩
    | simp at h

/-- The decoded temperature is the byte less 50 (40_field_transcoder.md R97). -/
theorem tempDec_toInt (b : Byte) : (tempDec b).toInt = (b.toNat : Int) - 50 := by
  have hb := b.isLt
  unfold tempDec tempBias
  rw [BitVec.toInt_ofInt]
  exact Int.bmod_eq_of_le (by omega) (by omega)

theorem le16Dec_toNat (b0 b1 : Byte) : (le16Dec b0 b1).toNat = b0.toNat + 256 * b1.toNat := by
  have h0 := b0.isLt
  have h1 := b1.isLt
  unfold le16Dec
  rw [BitVec.toNat_ofNat]
  omega

theorem u24Dec_toNat (b0 b1 b2 : Byte) : (u24Dec b0 b1 b2).toNat = b0.toNat + 256 * b1.toNat + 65536 * b2.toNat := by
  have h0 := b0.isLt
  have h1 := b1.isLt
  have h2 := b2.isLt
  unfold u24Dec
  rw [BitVec.toNat_ofNat]
  omega

/-- What the dispatch table answers when the form is routed (42_dispatcher.md R132). -/
theorem selectType_routed {cfg : Cfg} {ext : Form} {raw : U32} (h : ext = .extended ∨ cfg.stdRoute = true) :
    selectType cfg ext raw =
      if raw = cfg.cmdId then .cmdType else if raw = cfg.tlmId then .tlmType else .noType := by
  have : ¬ (ext = .standard ∧ cfg.stdRoute = false) := by
    rcases h with h | h <;> simp [h]
  simp [selectType, this]

theorem selectType_unrouted {cfg : Cfg} {raw : U32} (h : cfg.stdRoute = false) :
    selectType cfg .standard raw = .noType := by
  simp [selectType, h]

/-- An identifier is valid when it fits its form (42_dispatcher.md R140, 10_state.md R33). -/
theorem idValid_iff_fits {ext : Form} {raw : U32} : idValid ext raw = true ↔ FitsForm ext raw := by
  cases ext <;> simp [idValid, FitsForm, extIdMax, stdIdMax] <;> exact decide_eq_true_iff

/-- What `cmd_dec` reads of a request that presents at least 2 bytes (41_frame_codec.md R114). -/
theorem cmdDec_payloadOf {req : Request} (h : 2 ≤ req.len.toNat) :
    cmdDec (payloadOf req) = .ok ⟨req.data.extractLsb' 0 16⟩ := by
  have h2 : 2 ≤ effLen req.len := by simp [effLen, payloadMax, h]
  obtain ⟨n, hn⟩ := Nat.exists_eq_add_of_le h2
  have key : cmdDec (payloadOf req) = .ok ⟨le16Dec (lane req.data 0) (lane req.data 1)⟩ := by
    unfold payloadOf
    rw [hn, Nat.add_comm]
    rfl
  rw [key]
  congr 2
  apply BitVec.eq_of_toNat_eq
  rw [le16Dec_toNat]
  simp [lane, BitVec.extractLsb'_toNat, Nat.shiftRight_eq_div_pow]
  omega

/-- What `tlm_dec` reads of a request that presents 8 bytes, `LEN` 9 to 15 read as 8 (41_frame_codec.md R115). -/
theorem tlmDec_payloadOf {req : Request} (h : 8 ≤ req.len.toNat) :
    ∃ t, tlmDec (payloadOf req) = .ok t ∧ TelemetryOfData t req.data := by
  have key : payloadOf req = lanes req.data := by
    unfold payloadOf
    rw [effLen_eq_eight h]
    rfl
  rw [key]
  refine ⟨_, rfl, ?_, ?_, ?_, ?_⟩
  · apply BitVec.eq_of_toNat_eq
    rw [u24Dec_toNat]
    simp [lane, BitVec.extractLsb'_toNat, Nat.shiftRight_eq_div_pow]
    omega
  · apply BitVec.eq_of_toNat_eq
    rw [le16Dec_toNat]
    simp [lane, BitVec.extractLsb'_toNat, Nat.shiftRight_eq_div_pow]
    omega
  · apply BitVec.eq_of_toNat_eq
    rw [le16Dec_toNat]
    simp [lane, BitVec.extractLsb'_toNat, Nat.shiftRight_eq_div_pow]
    omega
  · rw [tempDec_toInt]; rfl

/-- The data port of a MotorCmd payload (41_frame_codec.md R112). -/
theorem dataPort_cmdEnc (v : U16) : dataPort (cmdEnc v) = v.setWidth 64 := by
  apply BitVec.eq_of_toNat_eq
  have := v.isLt
  simp [dataPort, cmdEnc, le16Enc, number, BitVec.extractLsb'_toNat, Nat.shiftRight_eq_div_pow]
  omega

/-- The data port of a Telemetry payload (41_frame_codec.md R111). -/
theorem dataPort_tlm (s : U24) (p c : U16) (tb : Byte) :
    dataPort (u24Enc s ++ le16Enc p ++ le16Enc c ++ [tb]) = tb ++ c ++ p ++ s := by
  apply BitVec.eq_of_toNat_eq
  have h1 := s.isLt
  have h2 := p.isLt
  have h3 := c.isLt
  have h4 := tb.isLt
  have e : BitVec.toNat (tb ++ c ++ p ++ s : BitVec (8+16+16+24)) =
      ((tb.toNat <<< 16 ||| c.toNat) <<< 16 ||| p.toNat) <<< 24 ||| s.toNat := by
    simp only [BitVec.toNat_append]
  refine Eq.trans ?_ e.symm
  simp [dataPort, u24Enc, le16Enc, number, BitVec.extractLsb'_toNat, Nat.shiftRight_eq_div_pow]
  rw [← Nat.shiftLeft_add_eq_or_of_lt h3, ← Nat.shiftLeft_add_eq_or_of_lt h2, ← Nat.shiftLeft_add_eq_or_of_lt h1]
  simp only [Nat.shiftLeft_eq]
  omega

end Sys2Proof.Machine
end

