-- ==== Sys2Proof/Laws/Decode.lean ====
section
/-! SUPPORT. The fields of an assembled command word, and the rows of the operation table exclude each other
(30_encoding.md R62, R63). -/

namespace Sys2Proof

@[simp] theorem Form.ofBit_bit (f : Form) : Form.ofBit f.bit = f := by cases f <;> rfl

theorem cwOp_cwOf (ext : Form) (mtag : BitVec 2) (op : BitVec 4) : cwOp (cwOf ext mtag op) = op := by
  cases ext <;> revert mtag op <;> decide

theorem cwMtag_cwOf (ext : Form) (mtag : BitVec 2) (op : BitVec 4) : cwMtag (cwOf ext mtag op) = mtag := by
  cases ext <;> revert mtag op <;> decide

theorem cwExt_cwOf (ext : Form) (mtag : BitVec 2) (op : BitVec 4) : cwExt (cwOf ext mtag op) = ext := by
  cases ext <;> revert mtag op <;> decide

/-- No command word selects two rows: where two rows' masks both look, their patterns differ. -/
theorem opcodeTable_disjoint :
    opcodeTable.Pairwise (fun a b => a.pattern &&& (a.mask &&& b.mask) ≠ b.pattern &&& (a.mask &&& b.mask)) := by
  decide

end Sys2Proof
end

