-- ==== Sys2Proof/Laws/State.lean ====
section
/-! SUPPORT. One lemma per field and update of State, each true by unfolding, so that no proof unfolds a record update. -/

namespace Sys2Proof.Machine

@[simp] theorem State.reset_pending : State.reset.pending = [] := rfl
@[simp] theorem State.reset_given : State.reset.given = [] := rfl
@[simp] theorem State.present_pending (s : State) (p : Presented) : (s.present p).pending = s.pending ++ [p] := rfl
@[simp] theorem State.present_given (s : State) (p : Presented) : (s.present p).given = s.given := rfl
@[simp] theorem State.hostReset_pending (s : State) : s.hostReset.pending = [] := rfl
@[simp] theorem State.hostReset_given (s : State) : s.hostReset.given = s.given := rfl

@[simp] theorem State.withCommandWord_given (s : State) (cw : CommandWord) : (s.withCommandWord cw).given = s.given := by
  rcases s with ⟨_ | ⟨p, rest⟩, g⟩ <;> rfl

/-- The request answered next has the command word that was placed. -/
theorem State.withCommandWord_head (s : State) (cw : CommandWord) :
    ∃ p rest, (s.withCommandWord cw).pending = p :: rest ∧ p.req.cw = cw ∧ rest = s.pending.tail := by
  rcases s with ⟨_ | ⟨p, rest⟩, g⟩
  · exact ⟨_, _, rfl, rfl, rfl⟩
  · exact ⟨_, _, rfl, rfl, rfl⟩

@[ext] theorem State.ext_fields {s t : State} (hp : s.pending = t.pending) (hg : s.given = t.given) : s = t := by
  cases s; cases t; simp_all

end Sys2Proof.Machine
end

