-- ==== Sys2Proof/Laws/Ops.lean ====
section
/-! SUPPORT. What the shared operations can do, said once: answering a request, fetching a command word, and `exec` as an
answer. -/

namespace Sys2Proof.Machine

/-- Answering with no request in flight changes nothing. -/
theorem answer_nil {f : Cfg → Request → Response} {s : State} (h : s.pending = []) : answer f s = .next s := by
  simp [answer, h, idle]

/-- Answering takes the oldest request and gives its response last. -/
theorem answer_cons {f : Cfg → Request → Response} {s : State} {p : Presented} {rest : List Presented}
    (h : s.pending = p :: rest) :
    answer f s = .next { pending := rest, given := s.given ++ [f p.cfg p.req] } := by
  simp [answer, h]

/-- Everything an answer can do. -/
theorem answer_cases {f : Cfg → Request → Response} {s t : State} (h : answer f s = .next t) :
    (s.pending = [] ∧ t = s) ∨
    (∃ p rest, s.pending = p :: rest ∧ t = { pending := rest, given := s.given ++ [f p.cfg p.req] }) := by
  rcases hp : s.pending with _ | ⟨p, rest⟩
  · rw [answer_nil hp] at h
    exact .inl ⟨rfl, by injection h with h; exact h.symm⟩
  · rw [answer_cons hp] at h
    exact .inr ⟨p, rest, rfl, by injection h with h; exact h.symm⟩

/-- Every operation form answers the oldest request with its response. -/
theorem exec_eq_answer (i : Instr) (s : State) : exec i s = answer (responseOf i) s := by
  cases i <;> rfl

/-- With a request in flight, the state that an operation form answers. -/
theorem exec_cons {s : State} {p : Presented} {rest : List Presented} (i : Instr) (h : s.pending = p :: rest) :
    exec i s = .next { pending := rest, given := s.given ++ [responseOf i p.cfg p.req] } := by
  rw [exec_eq_answer, answer_cons h]

theorem fetch_nil {s : State} (h : s.pending = []) : fetch s = none := by simp [fetch, h]

theorem fetch_cons {s : State} {p : Presented} {rest : List Presented} (h : s.pending = p :: rest) :
    fetch s = some (decode p.req.cw) := by simp [fetch, h]

/-- The block function on a word that decodes to an operation. -/
theorem block_instr {cfg : Cfg} {req : Request} {i : Instr} (h : decode req.cw = .instr i) :
    block cfg req = responseOf i cfg req := by simp [block, h]

/-- The block function on an illegal word. -/
theorem block_illegal {cfg : Cfg} {req : Request} {why : IllegalWord} (h : decode req.cw = .illegal why) :
    block cfg req = .err .eIllegal := by simp [block, h, illegalResponse, raise]

end Sys2Proof.Machine
end

