-- ==== Sys2Proof/Laws/PerInstr.lean ====
section
/-! SUPPORT. The statement made of every operation form, by constructor: the decoder reads back what the encoder writes. -/

namespace Sys2Proof.Laws

/-- Decoding the word of an operation gives that operation (30_encoding.md R62, R80). -/
def RoundTrip.Statement (i : Instr) : Prop := decode (encode i) = .instr i

theorem RoundTrip.encU24 : RoundTrip.Statement .encU24 := by unfold RoundTrip.Statement; decide
theorem RoundTrip.decU24 : RoundTrip.Statement .decU24 := by unfold RoundTrip.Statement; decide
theorem RoundTrip.encTemp : RoundTrip.Statement .encTemp := by unfold RoundTrip.Statement; decide
theorem RoundTrip.decTemp : RoundTrip.Statement .decTemp := by unfold RoundTrip.Statement; decide
theorem RoundTrip.encodeTlm : RoundTrip.Statement .encodeTlm := by unfold RoundTrip.Statement; decide
theorem RoundTrip.encodeCmd : RoundTrip.Statement .encodeCmd := by unfold RoundTrip.Statement; decide
theorem RoundTrip.encodeUns : RoundTrip.Statement .encodeUns := by unfold RoundTrip.Statement; decide
theorem RoundTrip.decCmd : RoundTrip.Statement .decCmd := by unfold RoundTrip.Statement; decide
theorem RoundTrip.decTlm : RoundTrip.Statement .decTlm := by unfold RoundTrip.Statement; decide

theorem RoundTrip.classify (ext : Form) : RoundTrip.Statement (.classify ext) := by
  unfold RoundTrip.Statement; cases ext <;> decide
theorem RoundTrip.buildTlm (ext : Form) : RoundTrip.Statement (.buildTlm ext) := by
  unfold RoundTrip.Statement; cases ext <;> decide
theorem RoundTrip.buildCmd (ext : Form) : RoundTrip.Statement (.buildCmd ext) := by
  unfold RoundTrip.Statement; cases ext <;> decide
theorem RoundTrip.buildUns (ext : Form) : RoundTrip.Statement (.buildUns ext) := by
  unfold RoundTrip.Statement; cases ext <;> decide
theorem RoundTrip.checkId (ext : Form) : RoundTrip.Statement (.checkId ext) := by
  unfold RoundTrip.Statement; cases ext <;> decide

end Sys2Proof.Laws
end

