-- ==== Sys2Proof/Laws/TextSyntax.lean ====
section
/-! SUPPORT. Placing operands on ports does not touch the command word of an assembled line (30_encoding.md R78). -/

namespace Sys2Proof.Machine

/-- The request that an assembler starts from asks for its operation. -/
theorem decode_requestFor (i : Instr) : decode (requestFor i).cw = .instr i := by
  cases i <;> first | rfl | (rename_i e; cases e <;> rfl)

@[simp] theorem putPayload_cw (req : Request) (P : Payload) : (putPayload req P).cw = req.cw := rfl

theorem putTelemetry_cw {req r : Request} {s p c t : Operand} (h : putTelemetry req s p c t = some r) :
    r.cw = req.cw := by
  simp only [putTelemetry, Option.bind_eq_bind, Option.bind_eq_some_iff] at h
  obtain ⟨_, _, _, _, _, _, _, _, h⟩ := h
  injection h with h
  rw [← h]

theorem putCmdValue_cw {req r : Request} {v : Operand} (h : putCmdValue req v = some r) : r.cw = req.cw := by
  simp only [putCmdValue, Option.bind_eq_bind, Option.bind_eq_some_iff] at h
  obtain ⟨_, _, h⟩ := h
  injection h with h
  rw [← h]

theorem putIdent_cw {i : Form → Instr} {f id : Operand} {r : Request} (h : putIdent i f id = some r) :
    ∃ ext, r.cw = (requestFor (i ext)).cw := by
  simp only [putIdent, Option.bind_eq_bind, Option.bind_eq_some_iff] at h
  obtain ⟨ext, _, _, _, h⟩ := h
  injection h with h
  exact ⟨ext, by rw [← h]⟩

end Sys2Proof.Machine
end

