-- ==== Sys2Proof/Tests/Slice0.lean ====
section
/-! SUPPORT. Tests of one step on a small state, expected results from 95_test_vectors.md and from worked examples of the
rules, ill-formed values that the well-formedness checks refuse, and for every statement with hypotheses a witness that
meets them. -/

namespace Sys2Proof.Machine

open Sys2Proof

/-- The `Cfg` that 95_test_vectors.md names at its head. -/
def usualCfg : String := "CFG cmd=0x03, tlm=0x7F, std_route=0, temp_policy=0"

/-- The same with the policy REJECT. -/
def rejectCfg : String := "CFG cmd=0x03, tlm=0x7F, std_route=0, temp_policy=1"

/-- The responses given after one step, where it answers a next state. -/
def afterStep (s : State) : Option (List Response) :=
  match step s with
  | .next t => some t.given
  | .fault _ => none
  | .refused _ => none

/-- The response to one line of text under the `Cfg` of another: assembled, presented, and answered by one step. -/
def said (cfg line : String) : Option Response :=
  match programOf [cfg, line] none with
  | none => none
  | some ps => (afterStep { pending := ps, given := [] }).bind fun given => given.head?

/-- The response ports of the same. -/
def shown (cfg line : String) : Option RespPorts := (said cfg line).map responsePorts

/-- One request in flight. -/
def one (cfg : Cfg) (req : Request) : State := { pending := [{ cfg := cfg, req := req }], given := [] }

/-! ## Decoding: words written bit by bit, `e mm oooo` (30_encoding.md R62, R63; 95_test_vectors.md T7) -/

theorem test_decode_encU24 : decode 0b0000000 = .instr .encU24 ∧ decode 0b0110000 = .instr .encU24 := by decide
theorem test_decode_decU24 : decode 0b0000001 = .instr .decU24 ∧ decode 0b1000001 = .instr .decU24 := by decide
theorem test_decode_encTemp : decode 0b0000010 = .instr .encTemp ∧ decode 0b1110010 = .instr .encTemp := by decide
theorem test_decode_decTemp : decode 0b0000011 = .instr .decTemp ∧ decode 0b1010011 = .instr .decTemp := by decide
theorem test_decode_encodeTlm : decode 0b0000100 = .instr .encodeTlm ∧ decode 0b1000100 = .instr .encodeTlm := by decide
theorem test_decode_encodeCmd : decode 0b0010100 = .instr .encodeCmd ∧ decode 0b1010100 = .instr .encodeCmd := by decide
theorem test_decode_encodeUns : decode 0b0100100 = .instr .encodeUns ∧ decode 0b1100100 = .instr .encodeUns := by decide
theorem test_decode_decCmd : decode 0b0000101 = .instr .decCmd ∧ decode 0b0110101 = .instr .decCmd := by decide
theorem test_decode_decTlm : decode 0b0000110 = .instr .decTlm ∧ decode 0b1110110 = .instr .decTlm := by decide
theorem test_decode_classify :
    decode 0b0000111 = .instr (.classify .standard) ∧ decode 0b1000111 = .instr (.classify .extended) ∧
    decode 0b1110111 = .instr (.classify .extended) := by decide
theorem test_decode_buildTlm :
    decode 0b0001000 = .instr (.buildTlm .standard) ∧ decode 0b1001000 = .instr (.buildTlm .extended) := by decide
theorem test_decode_buildCmd :
    decode 0b0011000 = .instr (.buildCmd .standard) ∧ decode 0b1011000 = .instr (.buildCmd .extended) := by decide
theorem test_decode_buildUns :
    decode 0b0101000 = .instr (.buildUns .standard) ∧ decode 0b1101000 = .instr (.buildUns .extended) := by decide
theorem test_decode_checkId :
    decode 0b0001001 = .instr (.checkId .standard) ∧ decode 0b1001001 = .instr (.checkId .extended) := by decide
theorem test_decode_illegal :
    decode 0b0110100 = .illegal (.reservedTag 4) ∧ decode 0b0111000 = .illegal (.reservedTag 8) ∧
    decode 0b1111000 = .illegal (.reservedTag 8) ∧ decode 0b0001010 = .illegal (.reservedOp 10) ∧
    decode 0b0001111 = .illegal (.reservedOp 15) ∧ decode 0b1001010 = .illegal (.reservedOp 10) ∧
    decode 0b1111111 = .illegal (.reservedOp 15) := by decide

/-- The words as opcode_table.json writes them, in one byte. -/
theorem test_decodeTableWord :
    decodeTableWord 8 0x24 = some .encodeUns ∧ decodeTableWord 7 0x48 = some (.buildTlm .extended) ∧
    decodeTableWord 8 0x38 = none := by decide

/-- The word placed after reset is the first that a step answers (ENC_U24 of status 0 gives three zero bytes, R92; an
illegal word gives Err(E_ILLEGAL), R68). -/
theorem test_withFetchWord :
    afterStep (State.reset.withFetchWord 8 0x00) = some [.bytes [0, 0, 0] false] ∧
    afterStep (State.reset.withFetchWord 8 0x34) = some [.err .eIllegal] := by decide

/-! ## Well-formedness: each check refuses an ill-formed value and admits its neighbour -/

theorem smoke_commandWord :
    CommandWord.legal 0x34 = false ∧ CommandWord.legal 0x78 = false ∧ CommandWord.legal 0x0A = false ∧
    CommandWord.legal 0x24 = true ∧ CommandWord.legal 0x39 = true := by decide
theorem smoke_payload : Payload.wf (List.replicate 9 0) = false ∧ Payload.wf (List.replicate 8 0) = true := by decide
theorem smoke_identifier :
    identWf .standard 0x800 = false ∧ identWf .standard 0x7FF = true ∧ identWf .extended 0x20000000 = false ∧
    identWf .extended 0x1FFFFFFF = true := by decide
theorem smoke_temperature :
    tempWf 206 = false ∧ tempWf 205 = true ∧ tempWf (-51) = false ∧ tempWf (-50) = true := by decide
theorem smoke_telemetry : Telemetry.wf ⟨0, 0, 0, 206⟩ = false ∧ Telemetry.wf ⟨0xFFFFFF, 0xFFFF, 0xFFFF, 205⟩ = true := by
  decide
theorem smoke_message :
    Message.wf (.telemetry ⟨0, 0, 0, -51⟩) = false ∧ Message.wf (.motorCmd ⟨0xFFFF⟩) = true ∧ Message.wf .unsupported = true := by
  decide
theorem smoke_request :
    Request.wf { zeroRequest with len := 9 } = false ∧ Request.wf { zeroRequest with cw := 0x7F } = false ∧
    Request.wf { zeroRequest with len := 8 } = true := by decide
theorem smoke_saturation :
    satWf [0x01] true = false ∧ satWf [0x00, 0xFF] true = false ∧ satWf [] true = false ∧ satWf [0xFF] true = true ∧
    satWf [0x01] false = true := by decide
theorem smoke_response :
    Response.wf (.bytes [0, 0, 0, 0] false) = false ∧ Response.wf (.bytes [5] true) = false ∧
    Response.wf (.u32 0x01000000) = false ∧ Response.wf (.i16 206) = false ∧
    Response.wf (.msg (.telemetry ⟨0, 0, 0, 206⟩)) = false ∧ Response.wf (.frame .standard 0x800 [0, 0] false) = false ∧
    Response.wf (.frame .extended 0 [0, 0, 0] false) = false ∧ Response.wf (.frame .extended 0 [0, 0] true) = false ∧
    Response.wf (.idOk .extended 0x20000000) = false ∧ Response.wf (.err .eLength) = true ∧ Response.wf .noFrame = true := by
  decide

/-! ## One step of each operation (95_test_vectors.md; the vector's number stands at each) -/

/-- T1, and the ports of R92. -/
theorem test_encU24 :
    said usualCfg "ENC_U24 status=0xDEADBE" = some (.bytes [0xBE, 0xAD, 0xDE] false) ∧
    (shown usualCfg "ENC_U24 status=0x123456").map (fun r => (r.st, r.rLen, r.rData)) = some (0, 3, 0x123456) := by decide

/-- T1, and its row with `DATA = 0xFFFFFFFFFF000001`, `LEN = 0`. -/
theorem test_decU24 :
    said usualCfg "DEC_U24 [0x56, 0x34, 0x12]" = some (.u32 0x00123456) ∧
    afterStep (one zeroCfg { zeroRequest with cw := 0x01, data := 0xFFFFFFFFFF000001 }) =
      some [.u32 0x00000001] := by decide

/-- T2, policy SATURATE: no wrap at 206, 300, -51. -/
theorem test_encTemp_saturate :
    said usualCfg "ENC_TEMP temp=-50" = some (.bytes [0x00] false) ∧ said usualCfg "ENC_TEMP temp=-1" = some (.bytes [0x31] false) ∧
    said usualCfg "ENC_TEMP temp=205" = some (.bytes [0xFF] false) ∧ said usualCfg "ENC_TEMP temp=206" = some (.bytes [0xFF] true) ∧
    said usualCfg "ENC_TEMP temp=300" = some (.bytes [0xFF] true) ∧ said usualCfg "ENC_TEMP temp=-51" = some (.bytes [0x00] true) := by
  decide

/-- T2, policy REJECT. -/
theorem test_encTemp_reject :
    said rejectCfg "ENC_TEMP temp=206" = some (.err .eTempRange) ∧ said rejectCfg "ENC_TEMP temp=-32768" = some (.err .eTempRange) ∧
    said rejectCfg "ENC_TEMP temp=205" = some (.bytes [0xFF] false) := by decide

/-- T2: the byte is unsigned. -/
theorem test_decTemp :
    said usualCfg "DEC_TEMP [0x80]" = some (.i16 78) ∧ said usualCfg "DEC_TEMP [0x31]" = some (.i16 (-1)) ∧
    (shown usualCfg "DEC_TEMP [0x00]").map (fun r => r.rTemp) = some 0xFFCE ∧
    (shown usualCfg "DEC_TEMP [0xFF]").map (fun r => r.rTemp) = some 0x00CD := by decide

/-- T3. -/
theorem test_encodeTlm :
    (shown usualCfg "ENCODE.TLM status=0x123456, position=0xABCD, current=0x0102, temp=0").map (fun r => (r.rLen, r.rData, r.sat)) =
      some (8, 0x320102ABCD123456, 0) ∧
    (shown usualCfg "ENCODE.TLM status=0x800000, position=1, current=2, temp=-51").map (fun r => (r.rData, r.sat)) =
      some (0x0000020001800000, 1) := by decide

/-- T3: under REJECT no payload is returned. -/
theorem test_encodeTlm_reject :
    shown rejectCfg "ENCODE.TLM status=0x000001, position=0x0100, current=0x00FF, temp=300" = some { zeroPorts with st := 3 } := by
  decide

/-- T3. -/
theorem test_encodeCmd :
    said usualCfg "ENCODE.CMD cmd_value=0xFF00" = some (.bytes [0x00, 0xFF] false) ∧
    said usualCfg "ENCODE.CMD cmd_value=1000" = some (.bytes [0xE8, 0x03] false) := by decide

/-- T3. -/
theorem test_encodeUns : shown usualCfg "ENCODE.UNS" = some { zeroPorts with st := 1 } := by decide

/-- T4. -/
theorem test_decCmd :
    said usualCfg "DEC_CMD [0x34]" = some (.err .eLength) ∧
    said usualCfg "DEC_CMD [0x34, 0x12, 0xFF]" = some (.msg (.motorCmd ⟨0x1234⟩)) := by decide

/-- T4 with `LEN = 15`, and V6 with lane 1 holding 0xFF. -/
theorem test_decCmd_length :
    afterStep (one zeroCfg { zeroRequest with cw := 0x05, len := 15, data := 0x1234 }) =
      some [.msg (.motorCmd ⟨0x1234⟩)] ∧
    afterStep (one zeroCfg { zeroRequest with cw := 0x05, len := 1, data := 0xFF00 }) =
      some [.err .eLength] := by decide

/-- T4. -/
theorem test_decTlm :
    said usualCfg "DEC_TLM [0x01, 0x02, 0x03, 0x04, 0x05, 0x06, 0x07, 0x08]" =
      some (.msg (.telemetry ⟨0x030201, 0x0504, 0x0706, -42⟩)) ∧
    said usualCfg "DEC_TLM [0x01, 0x02, 0x03, 0x04, 0x05, 0x06, 0x07]" = some (.err .eLength) := by decide

/-- T4 with `LEN = 9`. -/
theorem test_decTlm_length :
    afterStep (one zeroCfg { zeroRequest with cw := 0x06, len := 9, data := 0x1900808000DEADBE }) =
      some [.msg (.telemetry ⟨0xDEADBE, 0x8000, 0x0080, -25⟩)] := by decide

/-- T5: both identifiers, an unknown one with no payload, all 32 bits compared. -/
theorem test_classify :
    said usualCfg "CLASSIFY ext, id=0x03, [0x00, 0x80]" = some (.msg (.motorCmd ⟨0x8000⟩)) ∧
    said usualCfg "CLASSIFY ext, id=0x7F, [0xBE, 0xAD, 0xDE, 0x00, 0x80, 0x80, 0x00]" = some (.err .eLength) ∧
    said usualCfg "CLASSIFY ext, id=0x04, []" = some (.msg .unsupported) ∧
    said usualCfg "CLASSIFY ext, id=0x80000003, [0x00, 0x80]" = some (.msg .unsupported) := by decide

/-- T5: the standard form, and equal identifiers. -/
theorem test_classify_order :
    said usualCfg "CLASSIFY std, id=0x03, [0x00, 0x80]" = some (.msg .unsupported) ∧
    said "CFG cmd=0x03, tlm=0x7F, std_route=1, temp_policy=0" "CLASSIFY std, id=0x03, [0x00, 0x80]" =
      some (.msg (.motorCmd ⟨0x8000⟩)) ∧
    said "CFG cmd=0x10, tlm=0x10, std_route=0, temp_policy=0" "CLASSIFY ext, id=0x10, [0x01]" = some (.err .eLength) := by decide

/-- V5, and T6 under REJECT with a bad identifier. -/
theorem test_buildTlm :
    said usualCfg "BUILD.TLM ext, id=0x7F, status=0xDEADBE, position=0x8000, current=128, temp=-25" =
      some (.frame .extended 0x7F [0xBE, 0xAD, 0xDE, 0x00, 0x80, 0x80, 0x00, 0x19] false) ∧
    said rejectCfg "BUILD.TLM ext, id=0x20000000, status=1, position=2, current=3, temp=206" = some (.err .eIdRange) := by decide

/-- T6. -/
theorem test_buildTlm_temperature :
    said usualCfg "BUILD.TLM ext, id=0x7F, status=1, position=2, current=3, temp=206" =
      some (.frame .extended 0x7F [0x01, 0x00, 0x00, 0x02, 0x00, 0x03, 0x00, 0xFF] true) ∧
    said rejectCfg "BUILD.TLM ext, id=0x7F, status=1, position=2, current=3, temp=206" = some (.err .eTempRange) := by decide

/-- V5, T6. -/
theorem test_buildCmd :
    said usualCfg "BUILD.CMD ext, id=0x03, cmd_value=0x8000" = some (.frame .extended 0x03 [0x00, 0x80] false) ∧
    said usualCfg "BUILD.CMD std, id=0x7FF, cmd_value=0x0001" = some (.frame .standard 0x7FF [0x01, 0x00] false) ∧
    said usualCfg "BUILD.CMD std, id=0x800, cmd_value=0x0001" = some (.err .eIdRange) := by decide

/-- T6: the identifier is not looked at. -/
theorem test_buildUns : said usualCfg "BUILD.UNS ext, id=0xFFFFFFFF" = some .noFrame := by decide

/-- T6. -/
theorem test_checkId :
    said usualCfg "CHECK_ID ext, id=0x1FFFFFFF" = some (.idOk .extended 0x1FFFFFFF) ∧
    said usualCfg "CHECK_ID ext, id=0x20000000" = some (.err .eIdRange) ∧
    said usualCfg "CHECK_ID std, id=0x1FFFFFFF" = some (.err .eIdRange) := by decide

/-- The example of R78, and lines that are no request. -/
theorem test_textLines :
    lineOf "CLASSIFY ext, id=0x03, [0x00, 0x80]" =
      some (.request { zeroRequest with cw := 0x47, id := 0x00000003, len := 2, data := 0x0000000000008000 }) ∧
    lineOf "ENC_U24 status=0x1000000" = none ∧ lineOf "ENC_TEMP temp=40000" = none ∧ lineOf "NOP" = none ∧
    lineOf "DEC_U24 [0x01, 0x02]" = none := by decide

/-- R50 and R12 on payload bytes 2 to 5: a 32-bit field is the four bytes there, `0x06 05 04 03`. -/
theorem test_fieldOfFourBytes :
    memRead [1, 2, 3, 4, 5, 6, 7, 8] 2 4 = some 0x06050403 ∧ fieldGet [1, 2, 3, 4, 5, 6, 7, 8] 16 32 = some 0x06050403 ∧
    memRead [1, 2, 3] 1 3 = none := by decide

/-! ## Witnesses: for each statement with hypotheses, values that meet them -/

/-- Meets `s.pending = p :: rest` for any statement about an operation on the oldest request. -/
theorem witness_pending (cfg : Cfg) (req : Request) : (one cfg req).pending = ⟨cfg, req⟩ :: [] := rfl

theorem witness_NothingHappensBetweenRequests : State.reset.pending = [] := by decide

theorem witness_StepRunsDecodedOperation :
    (one zeroCfg { zeroRequest with cw := 0x41 }).pending = ⟨zeroCfg, { zeroRequest with cw := 0x41 }⟩ :: [] ∧
    decode 0x41 = .instr .decU24 := by decide

theorem witness_IllegalWordsAnswerIllegal :
    (State.mk [⟨zeroCfg, { zeroRequest with cw := 0x34 }⟩, ⟨zeroCfg, { zeroRequest with cw := 0x03 }⟩] []).pending =
      ⟨zeroCfg, { zeroRequest with cw := 0x34 }⟩ :: [⟨zeroCfg, { zeroRequest with cw := 0x03 }⟩] ∧
    decode 0x34 = .illegal (.reservedTag 4) ∧ decode 0x03 = .instr .decTemp := by decide

theorem witness_DecodeEncodeRoundTrip : decode 0x73 = .instr .decTemp ∧ encode .decTemp = 0x73 &&& keptBits .decTemp := by decide

/-- Two words that differ in bits their operation ignores, and two requests that differ in ports it ignores. -/
theorem witness_IgnoredBitsAndPorts :
    ((0x30 : CommandWord).toNat % 16 = (0x40 : CommandWord).toNat % 16 ∧
      ¬ ((0x30 : CommandWord).toNat % 16 = 4 ∨ (0x30 : CommandWord).toNat % 16 = 8) ∧
      ¬ ((0x30 : CommandWord).toNat % 16 = 7 ∨ (0x30 : CommandWord).toNat % 16 = 8 ∨ (0x30 : CommandWord).toNat % 16 = 9)) ∧
    (0x14 : CommandWord).toNat / 16 % 4 = (0x54 : CommandWord).toNat / 16 % 4 ∧
    (0x47 : CommandWord).toNat / 64 = (0x77 : CommandWord).toNat / 64 ∧
    decode 0x01 = .instr .decU24 ∧ decode 0x71 = .instr .decU24 ∧
    ReadsAgree .decU24 ⟨zeroCfg, { zeroRequest with cw := 0x01, data := 0x123456, len := 3 }⟩
      ⟨zeroCfg, { zeroRequest with cw := 0x71, data := 0xFF123456, len := 0 }⟩ := by
  refine ⟨by decide, by decide, by decide, by decide, by decide, ?_⟩
  unfold ReadsAgree
  decide

theorem witness_EncU24Result : (one zeroCfg { zeroRequest with status := 0xFFFFFF }).pending ≠ [] := by decide
theorem witness_DecU24Result : (one zeroCfg { zeroRequest with data := 0xFFFFFFFFFFFFFFFF }).pending ≠ [] := by decide
theorem witness_DecTempResult : (one zeroCfg { zeroRequest with data := 0xFF }).pending ≠ [] := by decide
theorem witness_EncodeCmdResult : (one zeroCfg { zeroRequest with cmdv := 0xFFFF }).pending ≠ [] := by decide
theorem witness_EncodeUnsResult : (one zeroCfg { zeroRequest with cw := 0x24 }).pending ≠ [] := by decide
theorem witness_BuildUnsResult : (one zeroCfg { zeroRequest with id := 0xFFFFFFFF }).pending ≠ [] := by decide

/-- Each clause of a temperature at the values where the clauses meet: -50 and 205 inside, -51 and 206 outside, under both
policies. -/
theorem witness_EncTempResult :
    ¬ (OutOfRange (-50 : I16).toInt ∧ TempPolicy.reject = .reject) ∧ ¬ (OutOfRange (205 : I16).toInt ∧ TempPolicy.reject = .reject) ∧
    ¬ (OutOfRange (-51 : I16).toInt ∧ TempPolicy.saturate = .reject) ∧ OutOfRange (-51 : I16).toInt ∧ OutOfRange (206 : I16).toInt ∧
    (one { zeroCfg with tempPolicy := .reject } { zeroRequest with temp := 206 }).pending ≠ [] := by decide

theorem witness_EncodeTlmResult :
    ¬ (OutOfRange (205 : I16).toInt ∧ TempPolicy.reject = .reject) ∧ OutOfRange (206 : I16).toInt ∧
    (one { zeroCfg with tempPolicy := .reject } { zeroRequest with cw := 0x04, temp := 206 }).pending ≠ [] := by decide

theorem witness_TempEncIsTheRule :
    TempEncodes .reject (-50) 0x00 false ∧ TempEncodes .saturate (-51) 0x00 true ∧ TempEncodes .saturate 206 0xFF true ∧
    tempEnc { zeroCfg with tempPolicy := .reject } 206 = .error .eTempRange := by decide

theorem witness_TemperatureLaws : (-50 : Int) ≤ 205 ∧ zeroCfg.tempPolicy = .saturate := by decide

theorem witness_DecCmdResult :
    2 ≤ ({ zeroRequest with len := 2 } : Request).len.toNat ∧ 2 ≤ ({ zeroRequest with len := 15 } : Request).len.toNat ∧
    ({ zeroRequest with len := 1 } : Request).len.toNat < 2 := by decide

theorem witness_DecTlmResult :
    8 ≤ ({ zeroRequest with len := 8 } : Request).len.toNat ∧ 8 ≤ ({ zeroRequest with len := 9 } : Request).len.toNat ∧
    ({ zeroRequest with len := 7 } : Request).len.toNat < 8 := by decide

theorem witness_MessageRoundTrip : -50 ≤ (-50 : I16).toInt ∧ (205 : I16).toInt ≤ 205 ∧ -50 ≤ (205 : I16).toInt := by decide

theorem witness_PayloadRoundTrip :
    ([0x00, 0x80] : Payload).length = 2 ∧ 2 ≤ ([1, 2, 3] : Payload).length ∧ (List.replicate 8 (0xFF : Byte)).length = 8 ∧
    -50 ≤ (⟨0, 0, 0, 205⟩ : Telemetry).temp.toInt ∧ (⟨0, 0, 0, 205⟩ : Telemetry).temp.toInt ≤ 205 ∧
    zeroCfg.tempPolicy = .saturate := by decide

theorem witness_TlmEncIsMemWrites : tlmEnc zeroCfg 1 2 3 206 = .ok ([1, 0, 0, 2, 0, 3, 0, 0xFF], true) := by decide

/-- A request with a length above 8, an empty and a full response payload. -/
theorem witness_PayloadPortForm :
    7 < min ({ zeroRequest with len := 15 } : Request).len.toNat 8 ∧ ([] : Payload).length ≤ 8 ∧
    (List.replicate 8 (0xFF : Byte)).length ≤ 8 ∧
    ({ zeroRequest with len := 2, data := 0x8000 } : Request).len = lenPort [0x00, 0x80] ∧
    ({ zeroRequest with len := 2, data := 0x8000 } : Request).data = dataPort [0x00, 0x80] := by decide

theorem witness_LanesBeyondLengthIgnored :
    (∀ k, k < 8 * min (2 : BitVec 4).toNat 8 → (0xFFFF1234 : BitVec 64).getLsbD k = (0x1234 : BitVec 64).getLsbD k) ∧
    (0xFFFF1234 : BitVec 64) ≠ 0x1234 := by decide

theorem witness_FieldPutThenGet :
    1 ≤ 5 ∧ 5 ≤ 32 ∧ 6 + 5 ≤ 8 * ([0, 0] : Payload).length ∧ 31 < 2 ^ 5 ∧ (0 + 6 ≤ 6 ∨ 6 + 5 ≤ 0) ∧ (11 + 5 ≤ 6 ∨ 6 + 5 ≤ 11) := by
  decide

theorem witness_FieldsOnWholeBytes :
    1 ≤ 4 ∧ 4 ≤ 4 ∧ 4 + 4 ≤ (List.replicate 8 (0 : Byte)).length ∧ 0xFFFFFFFF < 2 ^ (8 * 4) ∧
    1 ≤ 32 ∧ 32 ≤ 32 ∧ 32 + 32 ≤ 8 * (List.replicate 8 (0 : Byte)).length ∧
    (List.replicate 8 (0x80 : Byte))[63 / 8]? = some 0x80 := by decide

/-- All eight bytes of a full payload. -/
theorem witness_MemReadIsDataSlice :
    0 + 8 ≤ (List.replicate 8 (0 : Byte)).length ∧ 4 + 4 ≤ min ({ zeroRequest with len := 15 } : Request).len.toNat 8 := by decide

/-- At the end of what has been built, and inside it, with a byte on each side unwritten. -/
theorem witness_MemWriteSetsBytes :
    2 ≤ ([1, 2] : Payload).length ∧ 1 ≤ ([1, 2, 3] : Payload).length ∧ 0 < 1 ∧ (0 < 1 ∨ 1 + 1 ≤ 0) ∧ (2 < 1 ∨ 1 + 1 ≤ 2) := by decide

theorem witness_LayoutDescriptors :
    cmdDec [0x00, 0x80] = .ok ⟨0x8000⟩ ∧
    tlmDec [0x01, 0x02, 0x03, 0x04, 0x05, 0x06, 0x07, 0x08] = .ok ⟨0x030201, 0x0504, 0x0706, -42⟩ := by decide

theorem witness_ClassifyResult : (one zeroCfg { zeroRequest with cw := 0x47, len := 8 }).pending ≠ [] := by decide

theorem witness_UnknownIdentifierUnsupported :
    ((0xABCDEF : U32) ≠ zeroCfg.cmdId ∧ (0xABCDEF : U32) ≠ zeroCfg.tlmId) ∧
    (Form.standard = .standard ∧ zeroCfg.stdRoute = false) := by decide

theorem witness_OverwideIdentifierUnsupported :
    ({ zeroCfg with cmdId := 0x1FFFFFFF } : Cfg).cmdId.toNat ≤ 0x1FFFFFFF ∧ zeroCfg.tlmId.toNat ≤ 0x1FFFFFFF ∧
    0x1FFFFFFF < (0x20000000 : U32).toNat := by decide

theorem witness_IdentifierValidity : idValid .standard 0x800 = false ∧ idValid .extended 0x20000000 = false := by decide

/-- Both forms at their limits and just above, with the temperature in range, and out of range under REJECT. -/
theorem witness_BuildTlmResult :
    FitsForm .extended 0x1FFFFFFF ∧ ¬ FitsForm .extended 0x20000000 ∧ FitsForm .standard 0x7FF ∧ ¬ FitsForm .standard 0x800 ∧
    ¬ (OutOfRange (205 : I16).toInt ∧ TempPolicy.reject = .reject) ∧ OutOfRange (-51 : I16).toInt := by decide

theorem witness_BuildCmdResult : FitsForm .standard 0x7FF ∧ ¬ FitsForm .standard 0x800 := by decide
theorem witness_CheckIdResult : FitsForm .extended 0 ∧ ¬ FitsForm .extended 0xFFFFFFFF := by decide

/-- Configured identifiers, a BUILD and a CLASSIFY that meet the hypotheses of each clause. -/
theorem witness_Loopback :
    (0x03 : U32).toNat ≤ 0x1FFFFFFF ∧ (0x7F : U32).toNat ≤ 0x1FFFFFFF ∧ (0x03 : U32) ≠ 0x7F ∧
    decode 0x58 = .instr (.buildCmd .extended) ∧ decode 0x48 = .instr (.buildTlm .extended) ∧
    decode 0x47 = .instr (.classify .extended) ∧
    (responsePorts (block ⟨0x03, 0x7F, false, .saturate⟩ { zeroRequest with cw := 0x58, id := 0x03, cmdv := 0x8000 })).rLen = 2 ∧
    (responsePorts (block ⟨0x03, 0x7F, false, .saturate⟩ { zeroRequest with cw := 0x58, id := 0x03, cmdv := 0x8000 })).rData = 0x8000 ∧
    -50 ≤ (205 : I16).toInt ∧ (205 : I16).toInt ≤ 205 ∧
    block ⟨0x03, 0x7F, false, .saturate⟩ { zeroRequest with cw := 0x58, id := 0x555, cmdv := 1 } =
      .frame .extended 0x555 [0x01, 0x00] false := by decide

theorem witness_ResponsePortsTable : ([] : Payload).length ≤ 8 ∧ (List.replicate 8 (0xFF : Byte)).length ≤ 8 := by decide

theorem witness_ErrorCauses : (one zeroCfg { zeroRequest with cw := 0x7F }).pending ≠ [] := by decide

/-- The fields of the word 0x58. -/
theorem witness_PriorityOfConditions :
    8 = (0x58 : CommandWord).toNat % 16 ∧ 1 = (0x58 : CommandWord).toNat / 16 % 4 ∧
    (Form.extended = .extended ↔ (0x58 : CommandWord).toNat / 64 = 1) ∧
    (one zeroCfg { zeroRequest with cw := 0x58 }).pending ≠ [] := by decide

theorem witness_SaturationFlag : (one zeroCfg { zeroRequest with temp := 206 }).pending ≠ [] := by decide

theorem witness_ExecFrame :
    exec .decTemp (one zeroCfg zeroRequest) = .next { pending := [], given := [.i16 (-50)] } := rfl

theorem witness_ResponseIsFunctionOfRequest : (one zeroCfg zeroRequest).pending = ⟨zeroCfg, zeroRequest⟩ :: [] := by decide

/-- Two requesters, 0 and 1, with three requests. -/
theorem witness_RequestersShareAPort :
    (State.mk [⟨zeroCfg, zeroRequest⟩, ⟨zeroCfg, { zeroRequest with cw := 3 }⟩, ⟨zeroCfg, zeroRequest⟩] []).pending =
      ([(0, ⟨zeroCfg, zeroRequest⟩), (1, ⟨zeroCfg, { zeroRequest with cw := 3 }⟩), (0, ⟨zeroCfg, zeroRequest⟩)] :
        List (Nat × Presented)).map (fun x => x.2) ∧
    (State.mk [⟨zeroCfg, zeroRequest⟩, ⟨zeroCfg, { zeroRequest with cw := 3 }⟩, ⟨zeroCfg, zeroRequest⟩] []).given = [] := by decide

theorem witness_InstancesDoNotInterfere : [State.reset, one zeroCfg zeroRequest][1]? = some (one zeroCfg zeroRequest) := by decide

theorem witness_ErrorsLeaveOthersUnaffected : isError (block zeroCfg { zeroRequest with cw := 0x7F }) = true := by decide

theorem witness_StepKeepsInvariant :
    (∀ r ∈ (State.mk [⟨zeroCfg, { zeroRequest with cw := 0x03 }⟩] [.bytes [0xFF] true]).given, r.wf = true) ∧
    step (State.mk [⟨zeroCfg, { zeroRequest with cw := 0x03 }⟩] [.bytes [0xFF] true]) =
      .next { pending := [], given := [.bytes [0xFF] true, .i16 (-50)] } := ⟨by decide, rfl⟩

theorem witness_PortsHoldTheResponse : (one zeroCfg zeroRequest).pending = ⟨zeroCfg, zeroRequest⟩ :: [] := by decide

theorem witness_TextAssembles : (requestOfLine "ENCODE.UNS".toList []).isSome = true := by decide

end Sys2Proof.Machine
end

/-! PROOFS. MemRead and MemWrite byte by byte (00_scope.md R12; 20_memory.md R46, R47). -/

namespace Sys2Proof.Machine

/-- MemRead inside the payload (20_memory.md R46). -/
theorem memRead_eq_some {P : Payload} {off n : Nat} (h : off + n ≤ P.length) :
    memRead P off n = some (number ((P.drop off).take n)) := if_pos h

/-- MemWrite has a value at or before the end of what has been built, and nowhere else (20_memory.md R47, log entry 10). -/
theorem memWrite_eq_some_iff {Q Q' : Payload} {off n v : Nat} :
    memWrite Q off n v = some Q' ↔ off ≤ Q.length ∧ Q' = Q.take off ++ leBytes n v ++ Q.drop (off + n) := by
  simp [memWrite, eq_comm]

/-- The number of the first `n` bytes of a payload, a byte past its end counted as 0x00, is the sum of the bytes at their
places (00_scope.md R12). -/
theorem number_take_eq_sum (P : Payload) (n : Nat) :
    number (P.take n) = ((List.range n).map fun k => ((P[k]?).getD 0x00).toNat * 2 ^ (8 * k)).sum := by
  induction n with
  | zero => rfl
  | succ n ih =>
    rw [List.take_add_one, number_append, ih, List.range_succ, List.map_append, List.sum_append]
    rcases hb : P[n]? with _ | b
    · simp [hb]
    · obtain ⟨hn, -⟩ := List.getElem?_eq_some_iff.mp hb
      have hl : (P.take n).length = n := List.length_take_of_le hn.le
      simp [hb, hl, Nat.mul_comm]

/-- The lanes of a data port are its number (20_memory.md R41). -/
theorem number_lanes (d : BitVec 64) : number (lanes d) = d.toNat := by
  have h : number (lanes d) = d.toNat % 2 ^ 64 := number_take_lanes d (le_refl 8)
  rw [h, Nat.mod_eq_of_lt d.isLt]

/-- Bytes inside the effective length are the lanes of DATA at the same places (20_memory.md R41). -/
theorem slice_payloadOf {req : Request} {off n : Nat} (h : off + n ≤ effLen req.len) :
    ((payloadOf req).drop off).take n = ((lanes req.data).drop off).take n := by
  rw [payloadOf, List.drop_take, List.take_take, Nat.min_eq_left (by omega)]

/-- MemWrite neither shortens the payload nor leaves it short of what is written. -/
theorem length_memWrite {Q Q' : Payload} {off n v : Nat} (hw : memWrite Q off n v = some Q') :
    Q'.length = max Q.length (off + n) := by
  obtain ⟨h, rfl⟩ := memWrite_eq_some_iff.mp hw
  simp only [List.length_append, List.length_take, leBytes_length, List.length_drop]
  omega

/-- A written byte is that byte of the value (20_memory.md R47). -/
theorem memWrite_get_written {Q Q' : Payload} {off n v k : Nat}
    (hw : memWrite Q off n v = some Q') (hk : k < n) :
    Q'[off + k]? = some (BitVec.ofNat 8 (v / 2 ^ (8 * k))) := by
  obtain ⟨h, rfl⟩ := memWrite_eq_some_iff.mp hw
  have hl : (Q.take off).length = off := List.length_take_of_le h
  rw [List.append_assoc, List.getElem?_append_right (by omega), hl, Nat.add_sub_cancel_left,
    List.getElem?_append_left (by simpa using hk), leBytes_get v hk]

/-- A byte outside the bytes written is as before. -/
theorem memWrite_get_other {Q Q' : Payload} {off n v j : Nat}
    (hw : memWrite Q off n v = some Q') (hj : j < off ∨ off + n ≤ j) : Q'[j]? = Q[j]? := by
  obtain ⟨h, rfl⟩ := memWrite_eq_some_iff.mp hw
  have hl : (Q.take off).length = off := List.length_take_of_le h
  rcases hj with hlo | hhi
  · rw [List.append_assoc, List.getElem?_append_left (by omega), List.getElem?_take_of_lt hlo]
  · have hw' : (Q.take off ++ leBytes n v).length = off + n := by rw [List.length_append, hl, leBytes_length]
    rw [List.getElem?_append_right (by omega), hw', List.getElem?_drop, Nat.add_sub_cancel' hhi]

/-- Settles O57: the sum by induction on the count, the slice by reading the lanes of DATA in place of the payload. -/
theorem memReadIsDataSlice : Obligations.MemReadIsDataSlice := by
  refine ⟨fun P off n h => ?_, fun req off n h => ?_⟩
  · rw [memRead_eq_some h, number_take_eq_sum]
    simp only [List.getElem?_drop]
  · have hl : off + n ≤ (lanes req.data).length := h.trans (Nat.min_le_right _ _)
    rw [memRead_eq_some (by rwa [payloadOf_length]), slice_payloadOf h, number_slice hl, number_lanes]

/-- Settles O58: the new payload is the bytes before `off`, those of `v`, and the old bytes from `off + n` up. -/
theorem memWriteSetsBytes : Obligations.MemWriteSetsBytes := by
  intro Q off n v h
  have hw := (memWrite_eq_some_iff (n := n) (v := v)).mpr ⟨h, rfl⟩
  exact ⟨_, hw, length_memWrite hw, fun _ => memWrite_get_written hw, fun _ => memWrite_get_other hw⟩

end Sys2Proof.Machine

/-! PROOFS. State and responses: the step as the function block, the saturation flag of each operation, and the reset state
(10_state.md R20, R23, R36; 60_exceptions.md R153, R158). -/

namespace Sys2Proof.Machine

/-- With a request in flight, a step gives the response of the pure function `block` (10_state.md R20). -/
theorem step_cons {s : State} {p : Presented} {rest : List Presented} (h : s.pending = p :: rest) :
    step s = .next ⟨rest, s.given ++ [block p.cfg p.req]⟩ := by
  rcases hd : decode p.req.cw with i | why
  · simp only [step, fetch_cons h, hd]
    rw [exec_cons i h, block_instr hd]
  · simp only [step, fetch_cons h, hd]
    rw [execIllegal, answer_cons h, block_illegal hd, illegalResponse, raise]

theorem wire_eq_one_iff {b : Bool} : wire b = 1 ↔ b = true := by cases b <;> decide

/-- The `SAT` port carries the flag of the response (30_encoding.md R73). -/
theorem responsePorts_sat (r : Response) : (responsePorts r).sat = wire (satOf r) := by
  cases r with
  | msg m => cases m <;> rfl
  | _ => rfl

/-- `temp_enc` raises its flag exactly where it replaces a temperature, and raises no error there (40_field_transcoder.md
R96). -/
theorem tempEnc_sat_cases (cfg : Cfg) (L : Int) :
    (∃ tb sat, tempEnc cfg L = .ok (tb, sat) ∧ (sat = true ↔ OutOfRange L ∧ cfg.tempPolicy = .saturate)) ∨
    (∃ code, tempEnc cfg L = .error code ∧ ¬ (OutOfRange L ∧ cfg.tempPolicy = .saturate)) := by
  rcases tempEnc_cases cfg L with ⟨hlo, hhi, h⟩ | ⟨hL, hp, h⟩ | ⟨hL, hp, h⟩ | ⟨-, hp, h⟩
  · exact .inl ⟨_, _, h, by simp [OutOfRange]; omega⟩
  · exact .inl ⟨_, _, h, by simp [OutOfRange, hL, hp]⟩
  · exact .inl ⟨_, _, h, by simp [OutOfRange, hL, hp]⟩
  · exact .inr ⟨_, h, by simp [hp]⟩

/-- `tlm_enc` raises its flag exactly where its temperature is replaced (41_frame_codec.md R111). -/
theorem tlmEncRequest_sat_cases (cfg : Cfg) (req : Request) :
    (∃ q sat, tlmEncRequest cfg req = .ok (q, sat) ∧
      (sat = true ↔ OutOfRange req.temp.toInt ∧ cfg.tempPolicy = .saturate)) ∨
    (∃ code, tlmEncRequest cfg req = .error code ∧ ¬ (OutOfRange req.temp.toInt ∧ cfg.tempPolicy = .saturate)) := by
  rcases tempEnc_sat_cases cfg req.temp.toInt with ⟨tb, sat, h, hs⟩ | ⟨code, h, hs⟩
  · exact .inl ⟨_, sat, tlmEnc_ok h, hs⟩
  · exact .inr ⟨code, tlmEnc_error h, hs⟩

theorem satOf_encTempResponse (cfg : Cfg) (req : Request) :
    satOf (encTempResponse cfg req) = true ↔ OutOfRange req.temp.toInt ∧ cfg.tempPolicy = .saturate := by
  rcases tempEnc_sat_cases cfg req.temp.toInt with ⟨tb, sat, h, hs⟩ | ⟨code, h, hs⟩
  · simpa only [encTempResponse, logicalTemp, h, satOf] using hs
  · simpa only [encTempResponse, logicalTemp, h, raise, satOf, Bool.false_eq_true, false_iff] using hs

theorem satOf_encodeTlmResponse (cfg : Cfg) (req : Request) :
    satOf (encodeTlmResponse cfg req) = true ↔ OutOfRange req.temp.toInt ∧ cfg.tempPolicy = .saturate := by
  rcases tlmEncRequest_sat_cases cfg req with ⟨q, sat, h, hs⟩ | ⟨code, h, hs⟩
  · simpa only [encodeTlmResponse, h, satOf] using hs
  · simpa only [encodeTlmResponse, h, raise, satOf, Bool.false_eq_true, false_iff] using hs

/-- A valid identifier makes BUILD.TLM saturate as ENCODE.TLM does; a bad one is answered before anything is encoded
(60_exceptions.md R153). -/
theorem satOf_buildTlmResponse (ext : Form) (cfg : Cfg) (req : Request) :
    satOf (buildTlmResponse ext cfg req) = true ↔
      (OutOfRange req.temp.toInt ∧ cfg.tempPolicy = .saturate) ∧ FitsForm ext req.id := by
  rw [← idValid_iff_fits]
  by_cases hv : idValid ext req.id = true
  · rcases tlmEncRequest_sat_cases cfg req with ⟨q, sat, h, hs⟩ | ⟨code, h, hs⟩
    · simpa only [buildTlmResponse, hv, if_true, h, satOf, and_true] using hs
    · simpa only [buildTlmResponse, hv, if_true, h, raise, satOf, Bool.false_eq_true, false_iff, and_true] using hs
  · simp [buildTlmResponse, hv, raise, satOf]

theorem satOf_motorCmdResponse (r : Except ErrorCode MotorCmd) : satOf (motorCmdResponse r) = false := by
  cases r <;> rfl

theorem satOf_telemetryResponse (r : Except ErrorCode Telemetry) : satOf (telemetryResponse r) = false := by
  cases r <;> rfl

theorem satOf_classifyResponse (ext : Form) (cfg : Cfg) (req : Request) :
    satOf (classifyResponse ext cfg req) = false := by
  unfold classifyResponse
  split
  · rfl
  · exact satOf_motorCmdResponse _
  · exact satOf_telemetryResponse _

theorem satOf_buildCmdResponse (ext : Form) (cfg : Cfg) (req : Request) :
    satOf (buildCmdResponse ext cfg req) = false := by
  unfold buildCmdResponse
  split <;> rfl

theorem satOf_checkIdResponse (ext : Form) (cfg : Cfg) (req : Request) :
    satOf (checkIdResponse ext cfg req) = false := by
  unfold checkIdResponse
  split <;> rfl

/-- The flag of every operation form (10_state.md R23): three encode a temperature, the others never raise it. -/
theorem satOf_responseOf (i : Instr) (cfg : Cfg) (req : Request) :
    satOf (responseOf i cfg req) = true ↔ OutOfRange req.temp.toInt ∧ cfg.tempPolicy = .saturate ∧
      (i = .encTemp ∨ i = .encodeTlm ∨ ∃ ext, i = .buildTlm ext ∧ FitsForm ext req.id) := by
  rw [← and_assoc]
  cases i with
  | encTemp => simpa [responseOf] using satOf_encTempResponse cfg req
  | encodeTlm => simpa [responseOf] using satOf_encodeTlmResponse cfg req
  | buildTlm ext => simpa [responseOf] using satOf_buildTlmResponse ext cfg req
  | decCmd => simp [responseOf, decCmdResponse, satOf_motorCmdResponse]
  | decTlm => simp [responseOf, decTlmResponse, satOf_telemetryResponse]
  | classify ext => simp [responseOf, satOf_classifyResponse]
  | buildCmd ext => simp [responseOf, satOf_buildCmdResponse]
  | checkId ext => simp [responseOf, satOf_checkIdResponse]
  | encU24 | decU24 | decTemp | encodeCmd | encodeUns | buildUns =>
    simp [responseOf, encU24Response, decU24Response, decTempResponse, encodeCmdResponse, encodeUnsResponse,
      buildUnsResponse, satOf]

/-- Settles O43: the port carries the flag of the response, and the flag is known for every operation form. -/
theorem saturationFlag : Obligations.SaturationFlag := by
  intro i s p rest h
  refine ⟨_, exec_cons i h, ?_⟩
  rw [responsePorts_sat, wire_eq_one_iff]
  exact satOf_responseOf i p.cfg p.req

/-- Settles O45: the response is that of `block`, in which no state occurs. -/
theorem responseIsFunctionOfRequest : Obligations.ResponseIsFunctionOfRequest :=
  fun _ _ => ⟨_, fun _ _ h => step_cons h, rfl⟩

/-- With no response given the invariant has nothing to ask (10_state.md R36, log entry 3). -/
theorem givenWellFormed_of_given_nil {s : State} (h : s.given = []) : GivenWellFormed s := by
  simp [GivenWellFormed, h]

/-- Before the first response the ports hold none (10_state.md R36). -/
theorem lastResponsePorts_of_given_nil {s : State} (h : s.given = []) : s.lastResponsePorts = none := by
  simp [State.lastResponsePorts, h]

/-- Settles O53: the record of responses is empty after reset. -/
theorem resetMeetsInvariant : Obligations.ResetMeetsInvariant :=
  ⟨givenWellFormed_of_given_nil State.reset_given, State.reset_pending,
    lastResponsePorts_of_given_nil State.reset_given⟩

end Sys2Proof.Machine

/-! PROOFS. The payload space: a payload on its ports, bits of a field, the layouts, and ports shared by several requesters
(20_memory.md R41, R45, R48 to R52; 60_exceptions.md R164). -/

namespace Sys2Proof.Machine

/-! A payload on its ports. -/

/-- Byte `i` of a request's payload is lane `i` (20_memory.md R41). -/
theorem payloadOf_get {req : Request} {i : Nat} (h : i < effLen req.len) :
    (payloadOf req)[i]? = some (req.data.extractLsb' (8 * i) 8) := by
  rw [payloadOf, List.getElem?_take_of_lt h, lanes_get req.data (h.trans_le (effLen_le _))]

/-- The number of a request's payload is the low bits of DATA (20_memory.md R41). -/
theorem number_payloadOf (req : Request) :
    number (payloadOf req) = req.data.toNat % 2 ^ (8 * effLen req.len) :=
  number_take_lanes req.data (effLen_le _)

theorem lenPort_toNat {Q : Payload} (h : Q.length ≤ 8) : (lenPort Q).toNat = Q.length := by
  rw [lenPort, BitVec.toNat_ofNat]
  omega

/-- Lane `i` of a response's data port is byte `i`, 0x00 past the end (20_memory.md R41). -/
theorem dataPort_lane (Q : Payload) {i : Nat} (h : i < 8) :
    (dataPort Q).extractLsb' (8 * i) 8 = (Q[i]?).getD 0x00 := by
  apply BitVec.eq_of_getLsbD_eq
  intro k hk
  have hdiv : (8 * i + k) / 8 = i := by omega
  have hmod : (8 * i + k) % 8 = k := by omega
  have hin : 8 * i + k < 64 := by omega
  rw [BitVec.getLsbD_extractLsb', dataPort, BitVec.getLsbD_ofNat, number_testBit, hdiv, hmod]
  simp only [hk, hin, decide_true, Bool.true_and]

/-- A request that has the ports of a payload has that payload (20_memory.md R41). -/
theorem payloadOf_of_ports {req : Request} {Q : Payload} (hQ : Q.length ≤ 8) (hlen : req.len = lenPort Q)
    (hdata : req.data = dataPort Q) : payloadOf req = Q := by
  have hl : effLen req.len = Q.length := by rw [hlen, effLen_eq_of_le, lenPort_toNat hQ]; rwa [lenPort_toNat hQ]
  refine number_injective (by rw [payloadOf_length, hl]) ?_
  have hdvd : 2 ^ (8 * Q.length) ∣ 2 ^ 64 := Nat.pow_dvd_pow 2 (by omega)
  rw [number_payloadOf, hl, hdata, dataPort, BitVec.toNat_ofNat, Nat.mod_mod_of_dvd _ hdvd,
    Nat.mod_eq_of_lt (number_lt Q)]

/-- Settles O25: lanes are bytes in both directions, and a payload is fixed by its length and its number. -/
theorem payloadPortForm : Obligations.PayloadPortForm :=
  ⟨fun req => ⟨payloadOf_length req, fun _ => payloadOf_get, number_payloadOf req⟩,
    fun Q hQ => ⟨lenPort_toNat hQ, fun _ => dataPort_lane Q, fun _ => payloadOf_of_ports hQ⟩⟩

/-! Lanes beyond the effective length. -/

/-- DATA bits at or above the effective length are no part of the payload (20_memory.md R41). -/
theorem payloadOf_setData {req : Request} {d : BitVec 64}
    (h : ∀ k, k < 8 * effLen req.len → d.getLsbD k = req.data.getLsbD k) :
    payloadOf { req with data := d } = payloadOf req := by
  refine number_injective (by simp) ?_
  rw [number_payloadOf, number_payloadOf]
  apply Nat.eq_of_testBit_eq
  intro k
  by_cases hk : k < 8 * effLen req.len
  · simpa [Nat.testBit_mod_two_pow, hk, BitVec.testBit_toNat] using h k hk
  · simp [Nat.testBit_mod_two_pow, hk]

/-- DEC_CMD, DEC_TLM and CLASSIFY read DATA through the payload only (20_memory.md R45). -/
theorem responseOf_setData {i : Instr} {cfg : Cfg} {req : Request} {d : BitVec 64}
    (hi : i = .decCmd ∨ i = .decTlm ∨ i = .classify .extended ∨ i = .classify .standard)
    (hpay : payloadOf { req with data := d } = payloadOf req) :
    responseOf i cfg { req with data := d } = responseOf i cfg req := by
  rcases hi with rfl | rfl | rfl | rfl
  · simp only [responseOf, decCmdResponse, hpay]
  · simp only [responseOf, decTlmResponse, hpay]
  all_goals simp only [responseOf, classifyResponse, hpay]

/-- Settles O26: the two requests have one payload, and the three operations read no other part of DATA. -/
theorem lanesBeyondLengthIgnored : Obligations.LanesBeyondLengthIgnored := by
  intro s p rest d i hs hd hi
  refine ⟨_, exec_cons i hs, ?_⟩
  rw [exec_cons i rfl, responseOf_setData hi (payloadOf_setData hd)]

/-! Fields bit by bit. -/

/-- What `field_get` gives: a number of `w` bits, whose bit `k` is bit `lsb + k` of the payload's number
(20_memory.md R50). -/
theorem fieldGet_eq_some_iff {P : Payload} {lsb w v : Nat} :
    fieldGet P lsb w = some v ↔ (1 ≤ w ∧ w ≤ 32 ∧ lsb + w ≤ 8 * P.length) ∧ v < 2 ^ w ∧
      ∀ k, k < w → v.testBit k = (number P).testBit (lsb + k) := by
  have hbit (k : Nat) : (number P / 2 ^ lsb % 2 ^ w).testBit k = (decide (k < w) && (number P).testBit (lsb + k)) := by
    rw [Nat.testBit_mod_two_pow, Nat.testBit_div_two_pow, Nat.add_comm]
  rw [fieldGet, Option.ite_none_right_eq_some, Option.some_inj]
  refine and_congr_right fun _ => ⟨?_, fun ⟨hv, hb⟩ => Nat.eq_of_testBit_eq fun k => ?_⟩
  · rintro rfl
    exact ⟨Nat.mod_lt _ (by positivity), fun k hk => by simp [hbit, hk]⟩
  · rw [hbit]
    by_cases hk : k < w
    · simp [hk, hb k hk]
    · have hz : v.testBit k = false := Nat.testBit_lt_two_pow (hv.trans_le (Nat.pow_le_pow_right (by omega) (by omega)))
      simp [hk, hz]

/-- `field_get` inside the payload has a value. -/
theorem fieldGet_isSome {P : Payload} {lsb w : Nat} (h1 : 1 ≤ w) (h32 : w ≤ 32) (hP : lsb + w ≤ 8 * P.length) :
    ∃ v, fieldGet P lsb w = some v := ⟨_, if_pos ⟨h1, h32, hP⟩⟩

/-- `field_get` reads the length and its own bits only. -/
theorem fieldGet_congr {P Q : Payload} {lsb w : Nat} (hl : P.length = Q.length)
    (hb : ∀ k, k < w → (number P).testBit (lsb + k) = (number Q).testBit (lsb + k)) :
    fieldGet P lsb w = fieldGet Q lsb w := by
  ext v
  rw [fieldGet_eq_some_iff, fieldGet_eq_some_iff, hl]
  exact and_congr_right fun _ => and_congr_right fun _ => forall₂_congr fun k hk => by rw [hb k hk]

/-- `N` with the bits `lsb + w - 1 : lsb` replaced by `v`, the number that `field_put` forms (20_memory.md R51). -/
def putBits (N lsb w v : Nat) : Nat := N % 2 ^ lsb + v * 2 ^ lsb + N / 2 ^ (lsb + w) * 2 ^ (lsb + w)

theorem testBit_putBits {N lsb w v : Nat} (hv : v < 2 ^ w) (k : Nat) :
    (putBits N lsb w v).testBit k =
      if lsb ≤ k ∧ k < lsb + w then v.testBit (k - lsb) else N.testBit k := by
  have hlow : N % 2 ^ lsb < 2 ^ lsb := Nat.mod_lt _ (by positivity)
  have hmid : 2 ^ lsb * v + N % 2 ^ lsb < 2 ^ (lsb + w) := by
    calc 2 ^ lsb * v + N % 2 ^ lsb < 2 ^ lsb * (v + 1) := by rw [Nat.mul_succ]; omega
      _ ≤ 2 ^ (lsb + w) := by rw [pow_add]; exact Nat.mul_le_mul_left _ hv
  have hN : putBits N lsb w v = 2 ^ (lsb + w) * (N / 2 ^ (lsb + w)) + (2 ^ lsb * v + N % 2 ^ lsb) := by
    unfold putBits; ring
  rw [hN, Nat.testBit_two_pow_mul_add _ hmid, Nat.testBit_two_pow_mul_add _ hlow]
  by_cases hlo : k < lsb
  · simp [hlo, Nat.testBit_mod_two_pow, show k < lsb + w by omega, Nat.not_le.mpr hlo]
  · by_cases hhi : k < lsb + w
    · simp [hlo, hhi, Nat.not_lt.mp hlo]
    · simp [hhi, Nat.testBit_div_two_pow, Nat.sub_add_cancel (Nat.not_lt.mp hhi)]

/-- `field_put` has a value for a value that fits a field inside the payload, and nowhere else (log entry 10). -/
theorem fieldPut_eq_some_iff {Q Q' : Payload} {lsb w v : Nat} :
    fieldPut Q lsb w v = some Q' ↔ (1 ≤ w ∧ w ≤ 32 ∧ lsb + w ≤ 8 * Q.length ∧ v < 2 ^ w) ∧
      leBytes Q.length (putBits (number Q) lsb w v) = Q' := by
  rw [fieldPut, Option.ite_none_right_eq_some, Option.some_inj, putBits]

theorem length_fieldPut {Q Q' : Payload} {lsb w v : Nat} (hput : fieldPut Q lsb w v = some Q') :
    Q'.length = Q.length := by
  obtain ⟨-, rfl⟩ := fieldPut_eq_some_iff.mp hput
  exact leBytes_length _ _

/-- The bits of the payload that `field_put` builds: those of the value inside the field, the old ones outside it
(20_memory.md R51). -/
theorem number_fieldPut_testBit {Q Q' : Payload} {lsb w v : Nat} (hput : fieldPut Q lsb w v = some Q') (k : Nat) :
    (number Q').testBit k = if lsb ≤ k ∧ k < lsb + w then v.testBit (k - lsb) else (number Q).testBit k := by
  obtain ⟨⟨-, -, hQ, hv⟩, rfl⟩ := fieldPut_eq_some_iff.mp hput
  rw [number_leBytes, Nat.testBit_mod_two_pow, testBit_putBits hv]
  by_cases hk : k < 8 * Q.length
  · simp [hk]
  · have hz : (number Q).testBit k = false :=
      Nat.testBit_lt_two_pow ((number_lt Q).trans_le (Nat.pow_le_pow_right (by omega) (by omega)))
    simp [hk, hz, show ¬ k < lsb + w by omega]

/-- Settles O27: bits inside the field come from the value, bits outside it from the old payload. -/
theorem fieldPutThenGet : Obligations.FieldPutThenGet := by
  intro Q lsb w v h1 h32 hQ hv
  have hput := fieldPut_eq_some_iff.mpr ⟨⟨h1, h32, hQ, hv⟩, rfl⟩
  have hlen := length_fieldPut hput
  refine ⟨_, hput, hlen, ?_, fun lsb2 w2 hdisj => fieldGet_congr hlen fun k hk => ?_⟩
  · refine fieldGet_eq_some_iff.mpr ⟨⟨h1, h32, by rwa [hlen]⟩, hv, fun k hk => ?_⟩
    rw [number_fieldPut_testBit hput, if_pos (by omega), Nat.add_sub_cancel_left]
  · rw [number_fieldPut_testBit hput, if_neg (by omega)]

/-! Fields on whole bytes. -/

/-- A field of 1 to 4 whole bytes is the number of those bytes (20_memory.md R50). -/
theorem fieldGet_bytes {P : Payload} {off n : Nat} (h1 : 1 ≤ n) (h4 : n ≤ 4) (h : off + n ≤ P.length) :
    fieldGet P (8 * off) (8 * n) = some (number ((P.drop off).take n)) := by
  rw [fieldGet, if_pos (by omega), number_slice h]

/-- The number of the first bytes of a payload is its low bits. -/
theorem number_take {P : Payload} {n : Nat} (h : n ≤ P.length) : number (P.take n) = number P % 2 ^ (8 * n) := by
  simpa using number_slice (off := 0) (by omega : 0 + n ≤ P.length)

/-- The number of the bytes from `n` up is the payload's number without its low bits. -/
theorem number_drop {P : Payload} {n : Nat} (h : n ≤ P.length) : number (P.drop n) = number P / 2 ^ (8 * n) := by
  have hl : (P.take n).length = n := List.length_take_of_le h
  have hlt : number (P.take n) < 2 ^ (8 * n) := by simpa [hl] using number_lt (P.take n)
  have hP : number P = number (P.take n) + 2 ^ (8 * n) * number (P.drop n) := by
    conv_lhs => rw [← List.take_append_drop n P, number_append, hl]
  rw [hP, Nat.add_mul_div_left _ _ (by positivity), Nat.div_eq_of_lt hlt, Nat.zero_add]

/-- MemWrite of `n` whole bytes replaces their bits in the payload's number (20_memory.md R51). -/
theorem number_memWrite {Q Q' : Payload} {off n v : Nat} (hw : memWrite Q off n v = some Q')
    (h : off + n ≤ Q.length) (hv : v < 2 ^ (8 * n)) :
    number Q' = putBits (number Q) (8 * off) (8 * n) v := by
  obtain ⟨hoff, rfl⟩ := memWrite_eq_some_iff.mp hw
  rw [List.append_assoc, number_append, number_append, leBytes_length, List.length_take_of_le hoff, number_take hoff,
    number_leBytes, Nat.mod_eq_of_lt hv, number_drop h, putBits, Nat.mul_add 8 off n]
  ring

/-- On whole bytes `field_put` is MemWrite (20_memory.md R51). -/
theorem fieldPut_bytes {Q Q' : Payload} {off n v : Nat} (hw : memWrite Q off n v = some Q') (h1 : 1 ≤ n) (h4 : n ≤ 4)
    (h : off + n ≤ Q.length) (hv : v < 2 ^ (8 * n)) : fieldPut Q (8 * off) (8 * n) v = some Q' := by
  have hlen : Q'.length = Q.length := by rw [length_memWrite hw, Nat.max_eq_left h]
  refine fieldPut_eq_some_iff.mpr ⟨⟨by omega, by omega, by omega, hv⟩, ?_⟩
  rw [← number_memWrite hw h hv, ← hlen, leBytes_number]

/-- A field of one bit is that bit of the payload (20_memory.md R50). -/
theorem fieldGet_bit {P : Payload} {k : Nat} {b : Byte} (hb : P[k / 8]? = some b) :
    fieldGet P k 1 = some (b.getLsbD (k % 8)).toNat := by
  obtain ⟨hk, -⟩ := List.getElem?_eq_some_iff.mp hb
  rw [fieldGet, if_pos (by omega), pow_one, ← Nat.toNat_testBit, number_testBit, hb, Option.getD_some]

/-- Settles O28: reading and writing whole bytes by numbers, single bits by the bits of the payload's number. -/
theorem fieldsOnWholeBytes : Obligations.FieldsOnWholeBytes := by
  refine ⟨fun P off n h1 h4 h => ⟨_, memRead_eq_some h, fieldGet_bytes h1 h4 h⟩, fun Q off n v h1 h4 h hv => ?_,
    fun P lsb w h1 h32 hP => ?_, fun P k b => fieldGet_bit⟩
  · have hw := (memWrite_eq_some_iff (n := n) (v := v)).mpr ⟨(by omega : off ≤ Q.length), rfl⟩
    exact ⟨_, hw, fieldPut_bytes hw h1 h4 h hv⟩
  · obtain ⟨v, hget⟩ := fieldGet_isSome h1 h32 hP
    obtain ⟨-, hv, hbits⟩ := fieldGet_eq_some_iff.mp hget
    exact ⟨v, hget, hv, fun k hk => by rw [hbits k hk, number_testBit]⟩

/-! The descriptors of the two layouts. -/

/-- What `cmd_dec` decodes: the first two bytes (41_frame_codec.md R114). -/
theorem cmdDec_ok_cases {P : Payload} {m : MotorCmd} (h : cmdDec P = .ok m) :
    ∃ b0 b1 rest, P = b0 :: b1 :: rest ∧ m = ⟨le16Dec b0 b1⟩ := by
  unfold cmdDec at h
  split at h
  · exact ⟨_, _, _, rfl, (Except.ok.inj h).symm⟩
  · cases h

/-- What `tlm_dec` decodes: the first eight bytes, field by field (41_frame_codec.md R115). -/
theorem tlmDec_ok_cases {P : Payload} {t : Telemetry} (h : tlmDec P = .ok t) :
    ∃ b0 b1 b2 b3 b4 b5 b6 b7 rest, P = b0 :: b1 :: b2 :: b3 :: b4 :: b5 :: b6 :: b7 :: rest ∧
      t = ⟨u24Dec b0 b1 b2, le16Dec b3 b4, le16Dec b5 b6, tempDec b7⟩ := by
  unfold tlmDec at h
  split at h
  · exact ⟨_, _, _, _, _, _, _, _, _, rfl, (Except.ok.inj h).symm⟩
  · cases h

/-- A field of whole bytes: its logical value is the number of its bytes less the bias (20_memory.md R48, R51). -/
theorem FieldDesc.logical_bytes {d : FieldDesc} {P : Payload} {n : Nat} (hlsb : d.lsb = 8 * d.byteOffset)
    (hwidth : d.width = 8 * n) (h1 : 1 ≤ n) (h4 : n ≤ 4) (h : d.byteOffset + n ≤ P.length) :
    d.logical P = some ((number ((P.drop d.byteOffset).take n) : Int) - d.bias) := by
  rw [FieldDesc.logical, hlsb, hwidth, fieldGet_bytes h1 h4 h, Option.map_some]

theorem number_two_bytes (b0 b1 : Byte) : number [b0, b1] = (le16Dec b0 b1).toNat := by
  simp [le16Dec_toNat]

theorem number_three_bytes (b0 b1 b2 : Byte) : number [b0, b1, b2] = (u24Dec b0 b1 b2).toNat := by
  rw [u24Dec_toNat, number_cons, number_cons, number_cons, number_nil]
  omega

/-- Settles O29: each descriptor covers whole bytes, and the decoders read the number of the same bytes. -/
theorem layoutDescriptors : Obligations.LayoutDescriptors := by
  refine ⟨fun P m h => ?_, fun P t h => ?_⟩
  · obtain ⟨b0, b1, rest, rfl, rfl⟩ := cmdDec_ok_cases h
    rw [FieldDesc.logical_bytes (n := 2) rfl rfl (by omega) (by omega) (by simp [cmdValueField])]
    simp [cmdValueField, ← number_two_bytes]
  · obtain ⟨b0, b1, b2, b3, b4, b5, b6, b7, rest, rfl, rfl⟩ := tlmDec_ok_cases h
    refine ⟨?_, ?_, ?_, ?_⟩
    · rw [FieldDesc.logical_bytes (n := 3) rfl rfl (by omega) (by omega) (by simp [statusField])]
      simp [statusField, ← number_three_bytes]
    · rw [FieldDesc.logical_bytes (n := 2) rfl rfl (by omega) (by omega) (by simp [positionField])]
      simp [positionField, ← number_two_bytes]
    · rw [FieldDesc.logical_bytes (n := 2) rfl rfl (by omega) (by omega) (by simp [currentField])]
      simp [currentField, ← number_two_bytes]
    · rw [FieldDesc.logical_bytes (n := 1) rfl rfl (by omega) (by omega) (by simp [tempField])]
      simp [tempField, tempBias, tempDec_toInt]

/-! Runs and schedules. -/

/-- The state once the `k` oldest requests in flight, or all when there are fewer, have been answered
(70_reset_and_hazards.md R177, R181; log entry 4). -/
def State.answered (s : State) (k : Nat) : State :=
  ⟨s.pending.drop k, s.given ++ (s.pending.take k).map fun p => block p.cfg p.req⟩

@[simp] theorem State.answered_zero (s : State) : s.answered 0 = s := by
  ext1 <;> simp [State.answered]

theorem State.answered_answered (s : State) (j k : Nat) : (s.answered j).answered k = s.answered (j + k) := by
  ext1
  · simp [State.answered, List.drop_drop]
  · simp [State.answered, List.take_add]

/-- With no request in flight a step changes nothing (log entry 4). -/
theorem step_nil {s : State} (h : s.pending = []) : step s = .next s := by
  simp [step, fetch_nil h, idle]

/-- Every step answers the oldest request, if there is one. -/
theorem step_eq_answered (s : State) : step s = .next (s.answered 1) := by
  rcases s with ⟨_ | ⟨p, rest⟩, given⟩
  · simp [step_nil, State.answered]
  · rw [step_cons rfl]
    rfl

/-- `k` steps answer the `k` oldest requests (70_reset_and_hazards.md R181). -/
theorem runSteps_eq_answered (k : Nat) (s : State) : runSteps k s = .next (s.answered k) := by
  induction k generalizing s with
  | zero => simp [runSteps]
  | succ k ih => simp [runSteps, step_eq_answered, ih, State.answered_answered, Nat.add_comm]

/-- Settles O49: the responses follow the order of the requests, so both keep the tags of their requester. -/
theorem requestersShareAPort : Obligations.RequestersShareAPort := by
  intro tagged n s hpending hgiven
  have hall : (s.answered tagged.length).given = tagged.map fun x => block x.2.cfg x.2.req := by
    simp [State.answered, hpending, hgiven, List.take_of_length_le, Function.comp_def]
  refine ⟨_, runSteps_eq_answered tagged.length s, ?_⟩
  rw [hall, List.zip_map', List.filter_map, List.map_map]
  rfl

/-- The block whose turn it is answers its oldest request (60_exceptions.md R164). -/
theorem stepInstance_get_same {sys : List State} {k : Nat} {s : State} (h : sys[k]? = some s) :
    (stepInstance k sys)[k]? = some (s.answered 1) := by
  obtain ⟨hk, -⟩ := List.getElem?_eq_some_iff.mp h
  simp only [stepInstance, h, step_eq_answered, List.getElem?_set_self hk]

/-- The turn of another block leaves this one as it is (60_exceptions.md R164). -/
theorem stepInstance_get_other {sys : List State} {j k : Nat} (h : j ≠ k) :
    (stepInstance j sys)[k]? = sys[k]? := by
  rcases hj : sys[j]? with _ | s
  · simp [stepInstance, hj]
  · simp [stepInstance, hj, step_eq_answered, List.getElem?_set_ne h]

/-- Settles O50: induction on the schedule; a turn of number `k` answers one request of block `k`, any other turn none. -/
theorem instancesDoNotInterfere : Obligations.InstancesDoNotInterfere := by
  suffices h : ∀ (sched : List Nat) (sys : List State) (k : Nat) (s : State), sys[k]? = some s →
      (runSchedule sched sys)[k]? = some (s.answered (sched.count k)) from h
  intro sched
  induction sched with
  | nil => intro sys k s h; simpa [runSchedule] using h
  | cons j sched ih =>
    intro sys k s h
    by_cases hjk : j = k
    · subst hjk
      rw [runSchedule, ih _ _ _ (stepInstance_get_same h), State.answered_answered, List.count_cons_self, Nat.add_comm]
    · rw [runSchedule, ih _ _ _ ((stepInstance_get_other hjk).trans h), List.count_cons_of_ne hjk]

end Sys2Proof.Machine

/-! PROOFS. The command word and the response: what the decoder reads of a word, what a response reads of its request, how it
stands on the ports, and that it is well-formed (30_encoding.md R61 to R73, R78; 10_state.md R23). -/

namespace Sys2Proof.Machine

/-! Well-formed responses. -/

@[simp] theorem satWf_false (q : Payload) : satWf q false = true := rfl

/-- A payload of 1 or 8 bytes may carry the flag when its last byte is an end of the wire range (10_state.md R23). -/
theorem satWf_concat {q : Payload} {tb : Byte} {sat : Bool} (hlen : (q ++ [tb]).length = 1 ∨ (q ++ [tb]).length = 8)
    (hend : sat = true → tb = 0x00 ∨ tb = 0xFF) : satWf (q ++ [tb]) sat = true := by
  cases sat with
  | false => rfl
  | true =>
    rw [satWf, List.getLast?_concat]
    simpa only [Bool.not_true, Bool.false_or, Bool.and_eq_true, Bool.or_eq_true, decide_eq_true_iff, Option.some_inj] using
      And.intro hlen (hend rfl)

/-- A raised flag means that the byte is an end of the wire range (40_field_transcoder.md R96). -/
theorem tempEnc_sat_end {cfg : Cfg} {L : Int} {tb : Byte} {sat : Bool} (h : tempEnc cfg L = .ok (tb, sat))
    (hsat : sat = true) : tb = 0x00 ∨ tb = 0xFF := by
  subst hsat
  rcases tempEnc_cases cfg L with ⟨-, -, h'⟩ | ⟨-, -, h'⟩ | ⟨-, -, h'⟩ | ⟨-, -, h'⟩ <;> rw [h'] at h
  · cases h
  · cases h
    exact .inl rfl
  · cases h
    exact .inr rfl
  · cases h

/-- What `tlm_enc` gives a request has 8 bytes and a flag that they may carry (41_frame_codec.md R111). -/
theorem tlmEncRequest_ok_wf {cfg : Cfg} {req : Request} {q : Payload} {sat : Bool}
    (h : tlmEncRequest cfg req = .ok (q, sat)) : q.length = 8 ∧ satWf q sat = true := by
  rcases ht : tempEnc cfg (logicalTemp req) with code | ⟨tb, sat'⟩
  · rw [tlmEncRequest, tlmEnc_error ht] at h
    cases h
  · rw [tlmEncRequest, tlmEnc_ok ht] at h
    cases h
    exact ⟨rfl, satWf_concat (.inr rfl) (tempEnc_sat_end ht)⟩

/-- A byte less 50 is in the usable range (40_field_transcoder.md R97). -/
theorem tempWf_tempDec (b : Byte) : tempWf (tempDec b) = true := by
  have hb := b.isLt
  rw [tempWf, tempDec_toInt, decide_eq_true_iff]
  omega

/-- The two forms of identifier validity agree: no bit above the form's, and at most its maximum (30_encoding.md R76,
42_dispatcher.md R140). -/
theorem identWf_eq_idValid (ext : Form) (raw : U32) : identWf ext raw = idValid ext raw := by
  have hraw := raw.isLt
  have hbits (lsb w : Nat) : raw.extractLsb' lsb w = 0 ↔ raw.toNat / 2 ^ lsb % 2 ^ w = 0 := by
    simp [← BitVec.toNat_inj, BitVec.extractLsb'_toNat, Nat.shiftRight_eq_div_pow]
  cases ext <;> refine decide_eq_decide.mpr ((hbits _ _).trans ?_)
  · simp only [stdIdMax]
    omega
  · simp only [extIdMax]
    omega

theorem wf_motorCmdResponse (r : Except ErrorCode MotorCmd) : (motorCmdResponse r).wf = true := by
  cases r <;> rfl

/-- A decoded Telemetry has its temperature in range, and an error carries nothing (41_frame_codec.md R115). -/
theorem wf_telemetryResponse_tlmDec (P : Payload) : (telemetryResponse (tlmDec P)).wf = true := by
  rcases h : tlmDec P with code | t
  · rfl
  · obtain ⟨_, _, _, _, _, _, _, b7, _, -, rfl⟩ := tlmDec_ok_cases h
    exact tempWf_tempDec b7

theorem wf_encTempResponse (cfg : Cfg) (req : Request) : (encTempResponse cfg req).wf = true := by
  rcases h : tempEnc cfg (logicalTemp req) with code | ⟨tb, sat⟩
  · simp only [encTempResponse, h, raise, Response.wf]
  · have hs : satWf [tb] sat = true := satWf_concat (q := []) (.inl rfl) (tempEnc_sat_end h)
    simp [encTempResponse, h, Response.wf, hs]

theorem wf_encodeTlmResponse (cfg : Cfg) (req : Request) : (encodeTlmResponse cfg req).wf = true := by
  rcases h : tlmEncRequest cfg req with code | ⟨q, sat⟩
  · simp only [encodeTlmResponse, h, raise, Response.wf]
  · obtain ⟨hlen, hs⟩ := tlmEncRequest_ok_wf h
    simp [encodeTlmResponse, h, Response.wf, hlen, hs]

theorem wf_decU24Response (cfg : Cfg) (req : Request) : (decU24Response cfg req).wf = true := by
  have h24 := (u24Dec (lane req.data 0) (lane req.data 1) (lane req.data 2)).isLt
  simp only [decU24Response, Response.wf, BitVec.toNat_setWidth, decide_eq_true_iff]
  omega

theorem wf_classifyResponse (ext : Form) (cfg : Cfg) (req : Request) : (classifyResponse ext cfg req).wf = true := by
  unfold classifyResponse
  split
  · rfl
  · exact wf_motorCmdResponse _
  · exact wf_telemetryResponse_tlmDec _

theorem wf_buildTlmResponse (ext : Form) (cfg : Cfg) (req : Request) : (buildTlmResponse ext cfg req).wf = true := by
  by_cases hv : idValid ext req.id = true
  · rcases h : tlmEncRequest cfg req with code | ⟨q, sat⟩
    · simp only [buildTlmResponse, hv, if_true, h, raise, Response.wf]
    · obtain ⟨hlen, hs⟩ := tlmEncRequest_ok_wf h
      simp [buildTlmResponse, hv, h, Response.wf, identWf_eq_idValid, hlen, hs]
  · simp [buildTlmResponse, hv, raise, Response.wf]

theorem wf_buildCmdResponse (ext : Form) (cfg : Cfg) (req : Request) : (buildCmdResponse ext cfg req).wf = true := by
  by_cases hv : idValid ext req.id = true
  · simp [buildCmdResponse, hv, Response.wf, identWf_eq_idValid, cmdEnc, le16Enc]
  · simp [buildCmdResponse, hv, raise, Response.wf]

theorem wf_checkIdResponse (ext : Form) (cfg : Cfg) (req : Request) : (checkIdResponse ext cfg req).wf = true := by
  by_cases hv : idValid ext req.id = true
  · simp [checkIdResponse, hv, Response.wf, identWf_eq_idValid]
  · simp [checkIdResponse, hv, raise, Response.wf]

/-- Every operation form gives a well-formed response (30_encoding.md R70). -/
theorem wf_responseOf (i : Instr) (cfg : Cfg) (req : Request) : (responseOf i cfg req).wf = true := by
  cases i with
  | encU24 | encodeCmd | encodeUns | buildUns => rfl
  | decU24 => exact wf_decU24Response cfg req
  | encTemp => exact wf_encTempResponse cfg req
  | decTemp => exact tempWf_tempDec _
  | encodeTlm => exact wf_encodeTlmResponse cfg req
  | decCmd => exact wf_motorCmdResponse _
  | decTlm => exact wf_telemetryResponse_tlmDec _
  | classify ext => exact wf_classifyResponse ext cfg req
  | buildTlm ext => exact wf_buildTlmResponse ext cfg req
  | buildCmd ext => exact wf_buildCmdResponse ext cfg req
  | checkId ext => exact wf_checkIdResponse ext cfg req

theorem wf_block (cfg : Cfg) (req : Request) : (block cfg req).wf = true := by
  rcases h : decode req.cw with i | why
  · rw [block_instr h]
    exact wf_responseOf i cfg req
  · rw [block_illegal h]
    rfl

/-- Settles O52: a step adds at most one response, that of `block`, which is well-formed for every operation form and for an
illegal word. -/
theorem stepKeepsInvariant : Obligations.StepKeepsInvariant := by
  intro s t hs hst r hr
  rw [step_eq_answered] at hst
  cases hst
  rcases List.mem_append.mp hr with hold | hnew
  · exact hs r hold
  · obtain ⟨p, -, rfl⟩ := List.mem_map.mp hnew
    exact wf_block p.cfg p.req

/-! The decoder. -/

theorem cwOp_toNat (cw : CommandWord) : (cwOp cw).toNat = cw.toNat % 16 := by
  simp [cwOp, BitVec.extractLsb'_toNat]

theorem cwMtag_toNat (cw : CommandWord) : (cwMtag cw).toNat = cw.toNat / 16 % 4 := by
  simp [cwMtag, BitVec.extractLsb'_toNat, Nat.shiftRight_eq_div_pow]

/-- Words with one bit 6 have one form (30_encoding.md R63). -/
theorem cwExt_congr {a b : CommandWord} (h : a.toNat / 64 = b.toNat / 64) : cwExt a = cwExt b := by
  have hbit : a.extractLsb' 6 1 = b.extractLsb' 6 1 := by
    apply BitVec.eq_of_toNat_eq
    simp [BitVec.extractLsb'_toNat, Nat.shiftRight_eq_div_pow, h]
  rw [cwExt, cwExt, hbit]

theorem decodeEncode_illegal_iff (mtag : BitVec 2) :
    (∃ why, decodeEncode mtag = .illegal why) ↔ mtag.toNat = 3 := by
  have hlt := mtag.isLt
  obtain h | h | h | h : mtag.toNat = 0 ∨ mtag.toNat = 1 ∨ mtag.toNat = 2 ∨ mtag.toNat = 3 := by omega
  all_goals simp [decodeEncode, h]

theorem decodeBuild_illegal_iff (mtag : BitVec 2) (ext : Form) :
    (∃ why, decodeBuild mtag ext = .illegal why) ↔ mtag.toNat = 3 := by
  have hlt := mtag.isLt
  obtain h | h | h | h : mtag.toNat = 0 ∨ mtag.toNat = 1 ∨ mtag.toNat = 2 ∨ mtag.toNat = 3 := by omega
  all_goals simp [decodeBuild, h]

/-- The illegal words by their fields (30_encoding.md R68). -/
theorem decode_illegal_iff (cw : CommandWord) : (∃ why, decode cw = .illegal why) ↔
    10 ≤ (cwOp cw).toNat ∨ (((cwOp cw).toNat = 4 ∨ (cwOp cw).toNat = 8) ∧ (cwMtag cw).toNat = 3) := by
  unfold decode
  split
  case h_5 h => simp [h, decodeEncode_illegal_iff]
  case h_9 h => simp [h, decodeBuild_illegal_iff]
  case h_11 =>
    have h10 : 10 ≤ (cwOp cw).toNat := by
      simp only [imp_false] at *
      omega
    exact ⟨fun _ => .inl h10, fun _ => ⟨_, rfl⟩⟩
  all_goals simp [*]

/-- The decoder reads `mtag` for ENCODE and BUILD only, and `ext` for CLASSIFY, BUILD and CHECK_ID only
(30_encoding.md R69). -/
theorem decode_congr {a b : CommandWord} (hop : cwOp a = cwOp b)
    (hmtag : (cwOp a).toNat = 4 ∨ (cwOp a).toNat = 8 → cwMtag a = cwMtag b)
    (hext : (cwOp a).toNat = 7 ∨ (cwOp a).toNat = 8 ∨ (cwOp a).toNat = 9 → cwExt a = cwExt b) :
    decode a = decode b := by
  rw [hop] at hmtag hext
  unfold decode
  rw [hop]
  split
  case h_5 h => rw [hmtag (.inl h)]
  case h_8 h => rw [hext (.inl h)]
  case h_9 h => rw [hmtag (.inr h), hext (.inr (.inl h))]
  case h_10 h => rw [hext (.inr (.inr h))]
  all_goals rfl

/-- Encoding the operation that `cw` decodes to gives `cw` without its ignored bits; nothing is asked of an illegal word. -/
def encodesBack (cw : CommandWord) : Decoded → Bool
  | .instr i => encode i == cw &&& keptBits i
  | .illegal _ => true

/-- On each of the 128 words (30_encoding.md R62, R69). -/
theorem encodesBack_decode : ∀ cw : CommandWord, encodesBack cw (decode cw) = true := by decide

theorem encode_of_decode {cw : CommandWord} {i : Instr} (h : decode cw = .instr i) : encode i = cw &&& keptBits i := by
  simpa [h, encodesBack] using encodesBack_decode cw

/-- A legal word at the head of the queue makes the step that operation (30_encoding.md R80). -/
theorem step_of_decode {s : State} {p : Presented} {rest : List Presented} {i : Instr} (hs : s.pending = p :: rest)
    (hd : decode p.req.cw = .instr i) : step s = exec i s := by
  simp only [step, fetch_cons hs, hd]

/-- Settles O2: the step fetches the word and dispatches on what it decodes to. -/
theorem stepRunsDecodedOperation : Obligations.StepRunsDecodedOperation :=
  fun _ _ _ _ hs hd => step_of_decode hs hd

/-- Settles O3: the illegal words by the fields of the word, the counts over all 128, the response as that of `block`. -/
theorem illegalWordsAnswerIllegal : Obligations.IllegalWordsAnswerIllegal := by
  refine ⟨fun cw => ?_, by decide, by decide, fun s p rest why hs hd => ⟨?_, fun q rest2 i hq => step_of_decode hq⟩⟩
  · rw [decode_illegal_iff, cwOp_toNat, cwMtag_toNat]
  · rw [step_cons hs, block_illegal hd]

/-- Settles O4, on each of the 128 words: two transcriptions of one table, `opcodeTable` and `decode`, are compared. -/
theorem decodeFollowsTable : Obligations.DecodeFollowsTable := by
  unfold Obligations.DecodeFollowsTable
  decide

/-- Settles O5: the operation is the one that an assembled request asks for; the word is compared on each of the 128. -/
theorem decodeEncodeRoundTrip : Obligations.DecodeEncodeRoundTrip :=
  ⟨decode_requestFor, fun _ _ => encode_of_decode⟩

/-- Settles O6, word by word. -/
theorem sampleWordsDecode : Obligations.SampleWordsDecode := by
  unfold Obligations.SampleWordsDecode
  decide

/-! What a response reads of its request (30_encoding.md R61). -/

/-- A lane inside the low `n` bits of DATA is read from them. -/
theorem lane_congr {d d' : BitVec 64} {n k : Nat} (h : d.extractLsb' 0 n = d'.extractLsb' 0 n) (hk : 8 * k + 8 ≤ n) :
    lane d k = lane d' k := by
  apply BitVec.eq_of_getLsbD_eq
  intro j hj
  have hbit := congrArg (fun v => v.getLsbD (8 * k + j)) h
  simp only [BitVec.getLsbD_extractLsb', Nat.zero_add, show 8 * k + j < n by omega, decide_true, Bool.true_and] at hbit
  simp only [lane, BitVec.getLsbD_extractLsb', hbit]

theorem tempEnc_congr {cfg cfg' : Cfg} (h : cfg.tempPolicy = cfg'.tempPolicy) (L : Int) :
    tempEnc cfg L = tempEnc cfg' L := by
  rw [tempEnc, tempEnc, h]

theorem tlmEncRequest_congr {cfg cfg' : Cfg} {req req' : Request} (hs : req.status = req'.status)
    (hp : req.position = req'.position) (hc : req.current = req'.current) (ht : req.temp = req'.temp)
    (hpol : cfg.tempPolicy = cfg'.tempPolicy) : tlmEncRequest cfg req = tlmEncRequest cfg' req' := by
  simp only [tlmEncRequest, tlmEnc, logicalTemp, hs, hp, hc, ht, tempEnc_congr hpol]

theorem payloadOf_congr {req req' : Request} (hl : req.len = req'.len) (hd : req.data = req'.data) :
    payloadOf req = payloadOf req' := by
  rw [payloadOf, payloadOf, hl, hd]

/-- `cmd_dec` reads `LEN` and the two low lanes (41_frame_codec.md R114). -/
theorem cmdDec_payloadOf_congr {req req' : Request} (hl : req.len = req'.len)
    (hd : req.data.extractLsb' 0 16 = req'.data.extractLsb' 0 16) :
    cmdDec (payloadOf req) = cmdDec (payloadOf req') := by
  by_cases h : 2 ≤ req.len.toNat
  · rw [cmdDec_payloadOf h, cmdDec_payloadOf (hl ▸ h), hd]
  · have hshort {r : Request} (hr : r.len = req.len) : (payloadOf r).length < 2 := by
      rw [payloadOf_length, hr, effLen_eq_of_le (by omega)]
      omega
    rw [cmdDec_short (hshort rfl), cmdDec_short (hshort hl.symm)]

/-- Every operation form reads the ports and inputs that R61 lists for it, and no other (30_encoding.md R61, R69). -/
theorem responseOf_congr {i : Instr} {p p' : Presented} (h : ReadsAgree i p p') :
    responseOf i p.cfg p.req = responseOf i p'.cfg p'.req := by
  cases i with
  | encU24 =>
    have hs : p.req.status = p'.req.status := h
    simp only [responseOf, encU24Response, hs]
  | decU24 =>
    have hd : p.req.data.extractLsb' 0 24 = p'.req.data.extractLsb' 0 24 := h
    simp only [responseOf, decU24Response, lane_congr hd (by omega : 8 * 0 + 8 ≤ 24),
      lane_congr hd (by omega : 8 * 1 + 8 ≤ 24), lane_congr hd (by omega : 8 * 2 + 8 ≤ 24)]
  | encTemp =>
    obtain ⟨ht, hpol⟩ := h
    simp only [responseOf, encTempResponse, logicalTemp, ht, tempEnc_congr hpol]
  | decTemp =>
    have hd : p.req.data.extractLsb' 0 8 = p'.req.data.extractLsb' 0 8 := h
    simp only [responseOf, decTempResponse, lane, Nat.mul_zero, hd]
  | encodeTlm =>
    obtain ⟨hs, hp, hc, ht, hpol⟩ := h
    simp only [responseOf, encodeTlmResponse, tlmEncRequest_congr hs hp hc ht hpol]
  | encodeCmd =>
    have hv : p.req.cmdv = p'.req.cmdv := h
    simp only [responseOf, encodeCmdResponse, hv]
  | encodeUns | buildUns => rfl
  | decCmd =>
    obtain ⟨hl, hd⟩ := h
    simp only [responseOf, decCmdResponse, cmdDec_payloadOf_congr hl hd]
  | decTlm =>
    obtain ⟨hl, hd⟩ := h
    simp only [responseOf, decTlmResponse, payloadOf_congr hl hd]
  | classify ext =>
    obtain ⟨hid, hl, hd, hcmd, htlm, hroute⟩ := h
    simp only [responseOf, classifyResponse, selectType, payloadOf_congr hl hd, hid, hcmd, htlm, hroute]
  | buildTlm ext =>
    obtain ⟨hid, hs, hp, hc, ht, hpol⟩ := h
    simp only [responseOf, buildTlmResponse, hid, tlmEncRequest_congr hs hp hc ht hpol]
  | buildCmd ext =>
    obtain ⟨hid, hv⟩ := h
    simp only [responseOf, buildCmdResponse, hid, hv]
  | checkId ext =>
    have hid : p.req.id = p'.req.id := h
    simp only [responseOf, checkIdResponse, hid]

/-- Settles O7: the decoder field by field, the responses operation by operation. -/
theorem ignoredBitsAndPorts : Obligations.IgnoredBitsAndPorts := by
  refine ⟨fun a b hop hmtag hext => ?_, fun s s' p p' rest rest' i hs hs' hd hd' hreads => ?_⟩
  · refine decode_congr (BitVec.eq_of_toNat_eq ?_) (fun h => BitVec.eq_of_toNat_eq ?_) (fun h => cwExt_congr ?_)
    · rwa [cwOp_toNat, cwOp_toNat]
    · rw [cwMtag_toNat, cwMtag_toNat]
      exact hmtag (by rwa [cwOp_toNat] at h)
    · exact hext (by rwa [cwOp_toNat] at h)
  · refine ⟨_, (step_of_decode hs hd).trans (exec_cons i hs), ?_⟩
    rw [step_of_decode hs' hd', exec_cons i hs', responseOf_congr hreads]

/-! The response ports. -/

theorem responsePorts_st (r : Response) : (responsePorts r).st = statusOf r := by
  cases r <;> rfl

theorem statusOf_toNat_le (r : Response) : (statusOf r).toNat ≤ 5 := by
  cases r with
  | err code => cases code <;> decide
  | _ => simp [statusOf]

theorem responsePorts_rTag_toNat_le (r : Response) : (responsePorts r).rTag.toNat ≤ 2 := by
  cases r with
  | msg m => cases m <;> simp [responsePorts, messagePorts, tagOf]
  | _ => simp [responsePorts, zeroPorts]

/-- Settles O39: each row by unfolding, the lanes of a payload from its data port. -/
theorem responsePortsTable : Obligations.ResponsePortsTable :=
  ⟨fun Q _ _ => ⟨rfl, fun _ => dataPort_lane Q⟩, fun _ => rfl, fun _ => rfl, fun _ => rfl, fun _ => rfl, rfl,
    fun _ _ _ _ _ => rfl, rfl, fun _ _ => rfl, ⟨rfl, rfl, rfl, rfl⟩, rfl, rfl, rfl⟩

/-- Settles O40: the status codes reach 5 and the tags 2. -/
theorem reservedCodesNeverProduced : Obligations.ReservedCodesNeverProduced := by
  intro r
  have hst := statusOf_toNat_le r
  have htag := responsePorts_rTag_toNat_le r
  rw [responsePorts_st]
  refine ⟨?_, ?_, ?_⟩ <;> intro h
  · simp [h] at hst
  · simp [h] at hst
  · simp [h] at htag

/-- Settles O55: the response of `block` is the last one given. -/
theorem portsHoldTheResponse : Obligations.PortsHoldTheResponse :=
  fun s p rest hs => ⟨_, step_cons hs, by simp [State.lastResponsePorts]⟩

/-! The text form (30_encoding.md R78). -/

theorem encodeTlmLine_cw {ops : List Operand} {req : Request} (h : encodeTlmLine ops = some req) :
    req.cw = (requestFor .encodeTlm).cw := by
  unfold encodeTlmLine at h
  split at h
  · exact putTelemetry_cw h
  · cases h

theorem encodeCmdLine_cw {ops : List Operand} {req : Request} (h : encodeCmdLine ops = some req) :
    req.cw = (requestFor .encodeCmd).cw := by
  unfold encodeCmdLine at h
  split at h
  · exact putCmdValue_cw h
  · cases h

theorem classifyLine_cw {ops : List Operand} {req : Request} (h : classifyLine ops = some req) :
    ∃ ext, req.cw = (requestFor (.classify ext)).cw := by
  unfold classifyLine at h
  split at h
  · obtain ⟨req', hident, h⟩ := Option.bind_eq_some_iff.mp h
    obtain ⟨P, -, h⟩ := Option.bind_eq_some_iff.mp h
    cases h
    rw [putPayload_cw]
    exact putIdent_cw hident
  · cases h

theorem buildTlmLine_cw {ops : List Operand} {req : Request} (h : buildTlmLine ops = some req) :
    ∃ ext, req.cw = (requestFor (.buildTlm ext)).cw := by
  unfold buildTlmLine at h
  split at h
  · obtain ⟨req', hident, h⟩ := Option.bind_eq_some_iff.mp h
    rw [putTelemetry_cw h]
    exact putIdent_cw hident
  · cases h

theorem buildCmdLine_cw {ops : List Operand} {req : Request} (h : buildCmdLine ops = some req) :
    ∃ ext, req.cw = (requestFor (.buildCmd ext)).cw := by
  unfold buildCmdLine at h
  split at h
  · obtain ⟨req', hident, h⟩ := Option.bind_eq_some_iff.mp h
    rw [putCmdValue_cw h]
    exact putIdent_cw hident
  · cases h

theorem buildUnsLine_cw {ops : List Operand} {req : Request} (h : buildUnsLine ops = some req) :
    ∃ ext, req.cw = (requestFor (.buildUns ext)).cw := by
  unfold buildUnsLine at h
  split at h
  · exact putIdent_cw h
  · cases h

theorem checkIdLine_cw {ops : List Operand} {req : Request} (h : checkIdLine ops = some req) :
    ∃ ext, req.cw = (requestFor (.checkId ext)).cw := by
  unfold checkIdLine at h
  split at h
  · exact putIdent_cw h
  · cases h

/-- What a line form builds has the command word of an operation with the form's mnemonic. -/
def LineForm.AsksForMnemonic (f : LineForm) : Prop :=
  ∀ ops req, f.build ops = some req → ∃ i, req.cw = (requestFor i).cw ∧ Sys2Proof.mnemonic i = f.mnemonic

theorem asksForMnemonic_of_cw {name : String} {build : List Operand → Option Request} {i : Form → Instr}
    (hname : ∀ ext, Sys2Proof.mnemonic (i ext) = name)
    (hcw : ∀ {ops req}, build ops = some req → ∃ ext, req.cw = (requestFor (i ext)).cw) :
    LineForm.AsksForMnemonic ⟨name, build⟩ := by
  intro ops req h
  obtain ⟨ext, he⟩ := hcw h
  exact ⟨i ext, he, hname ext⟩

/-- No operand of any line form replaces the command word (30_encoding.md R78). -/
theorem lineForms_askForMnemonic : ∀ f ∈ lineForms, f.AsksForMnemonic := by
  simp only [lineForms, List.forall_mem_cons]
  refine ⟨fun _ _ h => ⟨.encU24, ?encU24, rfl⟩, fun _ _ h => ⟨.decU24, ?decU24, rfl⟩,
    fun _ _ h => ⟨.encTemp, ?encTemp, rfl⟩, fun _ _ h => ⟨.decTemp, ?decTemp, rfl⟩,
    fun _ _ h => ⟨.encodeTlm, encodeTlmLine_cw h, rfl⟩, fun _ _ h => ⟨.encodeCmd, encodeCmdLine_cw h, rfl⟩,
    fun _ _ h => ⟨.encodeUns, ?encodeUns, rfl⟩, fun _ _ h => ⟨.decCmd, ?decCmd, rfl⟩,
    fun _ _ h => ⟨.decTlm, ?decTlm, rfl⟩, asksForMnemonic_of_cw (fun _ => rfl) classifyLine_cw,
    asksForMnemonic_of_cw (fun _ => rfl) buildTlmLine_cw, asksForMnemonic_of_cw (fun _ => rfl) buildCmdLine_cw,
    asksForMnemonic_of_cw (fun _ => rfl) buildUnsLine_cw, asksForMnemonic_of_cw (fun _ => rfl) checkIdLine_cw,
    List.forall_mem_nil _⟩
  case encU24 | decU24 | encTemp | decTemp | decCmd | decTlm =>
    simp only [encU24Line, decU24Line, encTempLine, decTempLine, decCmdLine, decTlmLine] at h
    split at h
    · obtain ⟨_, -, rfl⟩ := Option.map_eq_some_iff.mp h
      rfl
    · cases h
  case encodeUns =>
    simp only [encodeUnsLine] at h
    split at h
    · cases h
      rfl
    · cases h

/-- Settles O56: the line's form is found by its mnemonic, and it keeps the command word of its operation. -/
theorem textAssembles : Obligations.TextAssembles := by
  refine ⟨fun m ops req h => ?_, by decide⟩
  unfold requestOfLine at h
  split at h
  · next f hf =>
    have hm : f.mnemonic.toList = m := by simpa using List.find?_some hf
    obtain ⟨i, hcw, hi⟩ := lineForms_askForMnemonic f (List.mem_of_find?_eq_some hf) ops req h
    exact ⟨i, by rw [hcw, decode_requestFor], by rw [hi, hm]⟩
  · cases h

end Sys2Proof.Machine

/-! PROOFS. The Field Transcoder: the little-endian fields as numbers, the temperature field as its rule, and what its four
operations answer (40_field_transcoder.md R91 to R98). -/

namespace Sys2Proof.Machine

/-! The little-endian fields. An encoding and a value agree when they are the same number. -/

theorem number_le16Enc (v : U16) : number (le16Enc v) = v.toNat := by
  have hv := v.isLt
  simp only [le16Enc, number_cons, number_nil, BitVec.extractLsb'_toNat, Nat.shiftRight_eq_div_pow]
  omega

theorem number_u24Enc (v : U24) : number (u24Enc v) = v.toNat := by
  have hv := v.isLt
  simp only [u24Enc, number_cons, number_nil, BitVec.extractLsb'_toNat, Nat.shiftRight_eq_div_pow]
  omega

theorem le16Dec_of_le16Enc_eq {v : U16} {b0 b1 : Byte} (h : le16Enc v = [b0, b1]) : le16Dec b0 b1 = v :=
  BitVec.eq_of_toNat_eq (by rw [← number_two_bytes, ← h, number_le16Enc])

theorem le16Enc_le16Dec (b0 b1 : Byte) : le16Enc (le16Dec b0 b1) = [b0, b1] :=
  number_injective rfl (by rw [number_le16Enc, number_two_bytes])

theorem u24Dec_of_u24Enc_eq {v : U24} {b0 b1 b2 : Byte} (h : u24Enc v = [b0, b1, b2]) : u24Dec b0 b1 b2 = v :=
  BitVec.eq_of_toNat_eq (by rw [← number_three_bytes, ← h, number_u24Enc])

theorem u24Enc_u24Dec (b0 b1 b2 : Byte) : u24Enc (u24Dec b0 b1 b2) = [b0, b1, b2] :=
  number_injective rfl (by rw [number_u24Enc, number_three_bytes])

/-- Settles O13: both directions are equalities of numbers. -/
theorem le16RoundTrip : Obligations.Le16RoundTrip :=
  ⟨fun _ => ⟨_, _, rfl, rfl, rfl, le16Dec_of_le16Enc_eq rfl⟩, fun b0 b1 => ⟨le16Dec_toNat b0 b1, le16Enc_le16Dec b0 b1⟩⟩

/-- Settles O14: both directions are equalities of numbers. -/
theorem u24RoundTrip : Obligations.U24RoundTrip :=
  ⟨fun _ => ⟨_, _, _, rfl, u24Dec_of_u24Enc_eq rfl⟩, u24Enc_u24Dec⟩

/-- The three low lanes of a data port decode to its bits 23:0 (40_field_transcoder.md R93). -/
theorem u24Dec_lanes (d : BitVec 64) : u24Dec (lane d 0) (lane d 1) (lane d 2) = d.extractLsb' 0 24 := by
  apply BitVec.eq_of_toNat_eq
  calc (u24Dec (lane d 0) (lane d 1) (lane d 2)).toNat
      = number ((lanes d).take 3) := (number_three_bytes _ _ _).symm
    _ = d.toNat % 2 ^ 24 := number_take_lanes d (by decide)
    _ = (d.extractLsb' 0 24).toNat := by rw [BitVec.extractLsb'_toNat, Nat.shiftRight_zero]

/-! The temperature field. -/

/-- `temp_enc` answers what the rule allows (40_field_transcoder.md R96). -/
theorem tempEncodes_of_tempEnc_ok {cfg : Cfg} {L : Int} {tb : Byte} {sat : Bool} (h : tempEnc cfg L = .ok (tb, sat)) :
    TempEncodes cfg.tempPolicy L tb sat := by
  rcases tempEnc_cases cfg L with ⟨hlo, hhi, h'⟩ | ⟨hL, hp, h'⟩ | ⟨hL, hp, h'⟩ | ⟨-, -, h'⟩ <;> rw [h'] at h <;> cases h
  · refine .inl ⟨hlo, hhi, ?_, rfl⟩
    rw [BitVec.toNat_ofInt]
    omega
  · exact .inr (.inl ⟨hL, hp, rfl, rfl⟩)
  · exact .inr (.inr ⟨hL, hp, rfl, rfl⟩)

/-- `temp_enc` answers everything the rule allows (40_field_transcoder.md R96). -/
theorem tempEnc_ok_of_tempEncodes {cfg : Cfg} {L : Int} {tb : Byte} {sat : Bool}
    (h : TempEncodes cfg.tempPolicy L tb sat) : tempEnc cfg L = .ok (tb, sat) := by
  rcases h with ⟨hlo, hhi, hb, rfl⟩ | ⟨hL, hp, rfl, rfl⟩ | ⟨hL, hp, rfl, rfl⟩
  · rw [tempEnc_inRange ⟨hlo, hhi⟩, ← hb, BitVec.ofInt_natCast, BitVec.ofNat_toNat, BitVec.setWidth_eq]
  · exact tempEnc_below hp hL
  · exact tempEnc_above hp hL

theorem tempEnc_ok_iff {cfg : Cfg} {L : Int} {tb : Byte} {sat : Bool} :
    tempEnc cfg L = .ok (tb, sat) ↔ TempEncodes cfg.tempPolicy L tb sat :=
  ⟨tempEncodes_of_tempEnc_ok, tempEnc_ok_of_tempEncodes⟩

/-- The only error of `temp_enc`, and its only cause (40_field_transcoder.md R96). -/
theorem tempEnc_error_iff {cfg : Cfg} {L : Int} {code : ErrorCode} :
    tempEnc cfg L = .error code ↔ code = .eTempRange ∧ OutOfRange L ∧ cfg.tempPolicy = .reject := by
  refine ⟨fun h => ?_, fun ⟨hcode, hL, hp⟩ => hcode ▸ tempEnc_reject hp hL⟩
  rcases tempEnc_cases cfg L with ⟨-, -, h'⟩ | ⟨-, -, h'⟩ | ⟨-, -, h'⟩ | ⟨hL, hp, h'⟩ <;> rw [h'] at h <;> cases h
  exact ⟨rfl, hL, hp⟩

/-- Whatever REJECT does not refuse encodes (40_field_transcoder.md R96). -/
theorem exists_tempEnc_ok {cfg : Cfg} {L : Int} (h : ¬ (OutOfRange L ∧ cfg.tempPolicy = .reject)) :
    ∃ tb sat, tempEnc cfg L = .ok (tb, sat) := by
  rcases ht : tempEnc cfg L with code | ⟨tb, sat⟩
  · exact absurd (tempEnc_error_iff.mp ht).2 h
  · exact ⟨tb, sat, rfl⟩

/-- Settles O12: the answers by `TempEncodes`, the errors by the one cause. -/
theorem tempEncIsTheRule : Obligations.TempEncIsTheRule :=
  fun _ _ => ⟨fun _ _ => tempEnc_ok_iff, by simp [tempEnc_error_iff], fun _ h => (tempEnc_error_iff.mp h).1⟩

/-- Law (b): a decoded byte is in range and encodes to itself (40_field_transcoder.md R98). -/
theorem tempEnc_tempDec (cfg : Cfg) (b : Byte) : tempEnc cfg (tempDec b).toInt = .ok (b, false) := by
  have hb := b.isLt
  rw [tempDec_toInt]
  exact tempEnc_ok_of_tempEncodes (.inl ⟨by omega, by omega, by omega, rfl⟩)

/-- Laws (a) and (d): what is encoded decodes to the operand clamped to the range (40_field_transcoder.md R98). -/
theorem tempDec_of_tempEncodes {policy : TempPolicy} {L : Int} {tb : Byte} {sat : Bool}
    (h : TempEncodes policy L tb sat) : (tempDec tb).toInt = max (-50) (min 205 L) := by
  rw [tempDec_toInt]
  rcases h with ⟨hlo, hhi, hb, -⟩ | ⟨hL, -, rfl, -⟩ | ⟨hL, -, rfl, -⟩
  · omega
  · rw [show (0x00 : Byte).toNat = 0 from rfl]
    omega
  · rw [show (0xFF : Byte).toNat = 255 from rfl]
    omega

/-- Law (c): the ends of the wire byte decode to the ends of the range (40_field_transcoder.md R98). -/
theorem tempDec_ends : (tempDec 0x00).toInt = -50 ∧ (tempDec 0xFF).toInt = 205 := by decide

/-- Settles O15: (a) and (d) are one law of the encoded byte, and the ends of (c) are bytes as in (b). -/
theorem temperatureLaws : Obligations.TemperatureLaws := by
  obtain ⟨hlow, hhigh⟩ := tempDec_ends
  refine ⟨fun cfg L hlo hhi => ?_, tempEnc_tempDec, fun cfg => ⟨?_, ?_⟩, tempDec_ends, fun cfg t hp => ?_⟩
  · have h := tempEnc_inRange (cfg := cfg) ⟨hlo, hhi⟩
    have hd := tempDec_of_tempEncodes (tempEncodes_of_tempEnc_ok h)
    have hb := tempDec_toInt (BitVec.ofInt 8 (L + 50))
    exact ⟨_, h, by omega, by omega⟩
  · rw [← hlow, tempEnc_tempDec]
  · rw [← hhigh, tempEnc_tempDec]
  · obtain ⟨tb, sat, h⟩ := exists_tempEnc_ok (cfg := cfg) (L := t.toInt) (by simp [hp])
    exact ⟨tb, sat, h, tempDec_of_tempEncodes (tempEncodes_of_tempEnc_ok h)⟩

/-! The four operations. -/

theorem dataPort_u24Enc (v : U24) : dataPort (u24Enc v) = v.setWidth 64 := by
  rw [dataPort, number_u24Enc, BitVec.ofNat_toNat]

theorem dataPort_byte (b : Byte) : dataPort [b] = b.setWidth 64 := by
  rw [dataPort, number_cons, number_nil, Nat.mul_zero, Nat.add_zero, BitVec.ofNat_toNat]

/-- A byte sequence on the response ports (30_encoding.md R73). -/
theorem responsePorts_bytes (q : Payload) (sat : Bool) :
    responsePorts (.bytes q sat) =
      { zeroPorts with sat := BitVec.ofBool sat, rLen := lenPort q, rData := dataPort q } := rfl

theorem encTempResponse_ok {cfg : Cfg} {req : Request} {tb : Byte} {sat : Bool}
    (h : tempEnc cfg req.temp.toInt = .ok (tb, sat)) : encTempResponse cfg req = .bytes [tb] sat := by
  simp only [encTempResponse, logicalTemp, h]

theorem encTempResponse_error {cfg : Cfg} {req : Request} {code : ErrorCode}
    (h : tempEnc cfg req.temp.toInt = .error code) : encTempResponse cfg req = .err code := by
  simp only [encTempResponse, logicalTemp, h, raise]

/-- Settles O8: the number of the three bytes is STATUS, so the data port is STATUS. -/
theorem encU24Result : Obligations.EncU24Result := by
  intro s p rest hs
  refine ⟨_, exec_cons .encU24 hs, rfl, ?_⟩
  rw [← dataPort_u24Enc]
  rfl

/-- Settles O9: the three lanes decode to `DATA[23:0]`, and their number has at most 24 bits. -/
theorem decU24Result : Obligations.DecU24Result := by
  intro s p rest hs
  refine ⟨_, _, exec_cons .decU24 hs, rfl, ?_, congrArg (BitVec.setWidth 32) (u24Dec_lanes p.req.data), rfl⟩
  rw [BitVec.toNat_setWidth_of_le (by decide)]
  exact u24Dec_toNat _ _ _

/-- Settles O10: `temp_enc` of the operand either encodes as the rule says or is refused under REJECT. -/
theorem encTempResult : Obligations.EncTempResult := by
  intro s p rest hs
  have hexec {r : Response} (hr : encTempResponse p.cfg p.req = r) :
      exec .encTemp s = .next ⟨rest, s.given ++ [r]⟩ := by
    rw [exec_cons .encTemp hs, ← hr]
    rfl
  refine ⟨fun hok => ?_, fun hL hp => hexec (encTempResponse_error (tempEnc_reject hp hL))⟩
  obtain ⟨tb, sat, h⟩ := exists_tempEnc_ok hok
  refine ⟨_, tb, sat, hexec (encTempResponse_ok h), tempEncodes_of_tempEnc_ok h, rfl, ?_⟩
  rw [responsePorts_bytes, dataPort_byte]
  rfl

/-- Settles O11: the decoded integer is the byte less 50, and a byte is at most 255. -/
theorem decTempResult : Obligations.DecTempResult := by
  intro s p rest hs
  have hv := tempDec_toInt (lane p.req.data 0)
  have hb := (lane p.req.data 0).isLt
  exact ⟨_, _, exec_cons .decTemp hs, rfl, hv, by omega, by omega, rfl⟩

end Sys2Proof.Machine

/-! PROOFS. The Frame Codec: the two layouts as inverse functions of payloads and messages, the Telemetry payload as four
MemWrite calls, and what the five operations answer (41_frame_codec.md R111 to R118). -/

namespace Sys2Proof.Machine

/-! The decoders. -/

/-- A decoded Telemetry has its temperature in the usable range (41_frame_codec.md R116). -/
theorem tlmDec_temp_range {P : Payload} {t : Telemetry} (h : tlmDec P = .ok t) :
    -50 ≤ t.temp.toInt ∧ t.temp.toInt ≤ 205 := by
  obtain ⟨_, _, _, _, _, _, _, b7, _, -, rfl⟩ := tlmDec_ok_cases h
  exact of_decide_eq_true (tempWf_tempDec b7)

/-- Settles O21: each decoder by the length it needs, the range from the temperature byte. -/
theorem decodersTotal : Obligations.DecodersTotal := by
  refine ⟨fun P => ?_, fun P => ?_⟩
  · rcases Nat.lt_or_ge P.length 2 with h | h
    · exact .inl ⟨cmdDec_short h, h⟩
    · exact .inr ⟨cmdDec_long h, h⟩
  · rcases Nat.lt_or_ge P.length 8 with h | h
    · exact .inl ⟨tlmDec_short h, h⟩
    · obtain ⟨t, ht⟩ := tlmDec_long h
      exact .inr ⟨⟨t, ht, tlmDec_temp_range ht⟩, h⟩

/-! Message to bytes to message. -/

theorem cmdDec_cmdEnc (v : U16) : cmdDec (cmdEnc v) = .ok ⟨v⟩ :=
  congrArg (fun w => Except.ok (MotorCmd.mk w)) (le16Dec_of_le16Enc_eq rfl)

/-- The layout of `tlm_enc` is read back field by field (41_frame_codec.md R111, R115). -/
theorem tlmDec_tlmLayout (status : U24) (position current : U16) (tb : Byte) :
    tlmDec (u24Enc status ++ le16Enc position ++ le16Enc current ++ [tb]) =
      .ok ⟨status, position, current, tempDec tb⟩ := by
  have hs := u24Dec_of_u24Enc_eq (v := status) rfl
  have hp := le16Dec_of_le16Enc_eq (v := position) rfl
  have hc := le16Dec_of_le16Enc_eq (v := current) rfl
  conv_rhs => rw [← hs, ← hp, ← hc]
  rfl

/-- Where `tlm_enc` has a value, it is the layout of R111 with the byte and the flag of `temp_enc` (41_frame_codec.md
R111). -/
theorem tlmEnc_ok_cases {cfg : Cfg} {status : U24} {position current : U16} {L : Int} {Q : Payload} {sat : Bool}
    (h : tlmEnc cfg status position current L = .ok (Q, sat)) :
    ∃ tb, tempEnc cfg L = .ok (tb, sat) ∧ Q = u24Enc status ++ le16Enc position ++ le16Enc current ++ [tb] := by
  rcases ht : tempEnc cfg L with code | ⟨tb, sat'⟩
  · rw [tlmEnc_error ht] at h
    cases h
  · rw [tlmEnc_ok ht] at h
    cases h
    exact ⟨tb, rfl, rfl⟩

/-- What `tlm_enc` gives decodes to its fields, the temperature clamped to the usable range (41_frame_codec.md R117,
R118). -/
theorem tlmDec_of_tlmEnc_ok {cfg : Cfg} {status : U24} {position current : U16} {L : Int} {Q : Payload} {sat : Bool}
    (h : tlmEnc cfg status position current L = .ok (Q, sat)) :
    ∃ temp, tlmDec Q = .ok ⟨status, position, current, temp⟩ ∧ temp.toInt = max (-50) (min 205 L) := by
  obtain ⟨tb, ht, rfl⟩ := tlmEnc_ok_cases h
  exact ⟨tempDec tb, tlmDec_tlmLayout status position current tb,
    tempDec_of_tempEncodes (tempEncodes_of_tempEnc_ok ht)⟩

/-- A Telemetry in range encodes without the flag and decodes to itself (41_frame_codec.md R117). -/
theorem exists_tlmEnc_inRange (cfg : Cfg) (t : Telemetry) (hlo : -50 ≤ t.temp.toInt) (hhi : t.temp.toInt ≤ 205) :
    ∃ Q, tlmEnc cfg t.status t.position t.current t.temp.toInt = .ok (Q, false) ∧ tlmDec Q = .ok t := by
  have henc := tlmEnc_ok (status := t.status) (position := t.position) (current := t.current)
    (tempEnc_inRange (cfg := cfg) ⟨hlo, hhi⟩)
  obtain ⟨temp, hdec, htemp⟩ := tlmDec_of_tlmEnc_ok henc
  obtain rfl : temp = t.temp := BitVec.eq_of_toInt_eq (by omega)
  exact ⟨_, henc, hdec⟩

/-- Settles O22: the MotorCmd by its 16-bit field, the Telemetry field by field. -/
theorem messageRoundTrip : Obligations.MessageRoundTrip :=
  ⟨cmdDec_cmdEnc, fun cfg status position current t => exists_tlmEnc_inRange cfg ⟨status, position, current, t⟩⟩

/-! Bytes to message to bytes. -/

/-- A decoded MotorCmd re-encodes to the two bytes that were read (41_frame_codec.md R118). -/
theorem cmdEnc_of_cmdDec_ok {P : Payload} {m : MotorCmd} (h : cmdDec P = .ok m) : cmdEnc m.cmdValue = P.take 2 := by
  obtain ⟨b0, b1, rest, rfl, rfl⟩ := cmdDec_ok_cases h
  exact le16Enc_le16Dec b0 b1

/-- A payload of exactly 8 bytes re-encodes to itself, without the flag (41_frame_codec.md R118). -/
theorem tlmEnc_of_tlmDec_ok (cfg : Cfg) {P : Payload} {t : Telemetry} (hP : P.length = 8) (h : tlmDec P = .ok t) :
    tlmEnc cfg t.status t.position t.current t.temp.toInt = .ok (P, false) := by
  obtain ⟨b0, b1, b2, b3, b4, b5, b6, b7, rest, rfl, rfl⟩ := tlmDec_ok_cases h
  obtain rfl : rest = [] := List.eq_nil_of_length_eq_zero (by simpa using hP)
  rw [tlmEnc_ok (tempEnc_tempDec cfg b7), u24Enc_u24Dec, le16Enc_le16Dec, le16Enc_le16Dec]
  rfl

/-- `tlm_enc` gives 8 bytes (41_frame_codec.md R111). -/
theorem length_of_tlmEnc_ok {cfg : Cfg} {status : U24} {position current : U16} {L : Int} {Q : Payload} {sat : Bool}
    (h : tlmEnc cfg status position current L = .ok (Q, sat)) : Q.length = 8 := by
  obtain ⟨_, -, rfl⟩ := tlmEnc_ok_cases h
  rfl

/-- A MotorCmd is decoded from exactly one payload of 2 bytes (41_frame_codec.md R118). -/
theorem existsUnique_cmdDec (m : MotorCmd) : ∃! P : Payload, P.length = 2 ∧ cmdDec P = .ok m := by
  refine ⟨cmdEnc m.cmdValue, ⟨rfl, cmdDec_cmdEnc _⟩, fun P ⟨hlen, hP⟩ => ?_⟩
  rw [cmdEnc_of_cmdDec_ok hP, List.take_of_length_le hlen.le]

/-- A Telemetry in range is decoded from exactly one payload of 8 bytes: any such payload is its encoding
(41_frame_codec.md R118). -/
theorem existsUnique_tlmDec (t : Telemetry) (hlo : -50 ≤ t.temp.toInt) (hhi : t.temp.toInt ≤ 205) :
    ∃! P : Payload, P.length = 8 ∧ tlmDec P = .ok t := by
  obtain ⟨Q, henc, hdec⟩ := exists_tlmEnc_inRange zeroCfg t hlo hhi
  refine ⟨Q, ⟨length_of_tlmEnc_ok henc, hdec⟩, fun P ⟨hlen, hP⟩ => ?_⟩
  cases henc.symm.trans (tlmEnc_of_tlmDec_ok zeroCfg hlen hP)
  rfl

/-- Settles O23: a decoded message re-encodes to the bytes read, so an exact-length payload is the encoding of its message;
under SATURATE every temperature encodes. -/
theorem payloadRoundTrip : Obligations.PayloadRoundTrip := by
  have hcmd (P : Payload) (h : 2 ≤ P.length) : ∃ m, cmdDec P = .ok m ∧ cmdEnc m.cmdValue = P.take 2 := by
    obtain ⟨m, hm⟩ := cmdDec_long h
    exact ⟨m, hm, cmdEnc_of_cmdDec_ok hm⟩
  refine ⟨fun P h => ?_, existsUnique_cmdDec, existsUnique_tlmDec, fun cfg P h => ?_, hcmd,
    fun cfg status position current L hp => ?_⟩
  · simpa only [List.take_of_length_le h.le] using hcmd P h.ge
  · obtain ⟨t, ht⟩ := tlmDec_long h.ge
    exact ⟨t, ht, tlmEnc_of_tlmDec_ok cfg h ht⟩
  · obtain ⟨tb, sat, htb⟩ := exists_tempEnc_ok (cfg := cfg) (L := L.toInt) (by simp [hp])
    have henc := tlmEnc_ok (status := status) (position := position) (current := current) htb
    obtain ⟨temp, hdec, htemp⟩ := tlmDec_of_tlmEnc_ok henc
    exact ⟨_, sat, _, henc, hdec, rfl, rfl, rfl, htemp⟩

/-! The Telemetry payload as MemWrite calls. -/

/-- MemWrite at the end of what has been built appends the bytes (20_memory.md R47). -/
theorem memWrite_at_end {Q B : Payload} {off n v : Nat} (hQ : Q.length = off) (hB : leBytes n v = B) :
    memWrite Q off n v = some (Q ++ B) := by
  refine memWrite_eq_some_iff.mpr ⟨hQ.ge, ?_⟩
  rw [List.take_of_length_le hQ.le, List.drop_eq_nil_of_le (by omega), List.append_nil, hB]

theorem leBytes_le16 (v : U16) : leBytes 2 v.toNat = le16Enc v := by
  rw [← number_le16Enc]
  exact leBytes_number (le16Enc v)

theorem leBytes_u24 (v : U24) : leBytes 3 v.toNat = u24Enc v := by
  rw [← number_u24Enc]
  exact leBytes_number (u24Enc v)

theorem leBytes_byte (b : Byte) : leBytes 1 b.toNat = [b] := leBytes_number [b]

/-- Settles O24: each call writes where the bytes built so far end. -/
theorem tlmEncIsMemWrites : Obligations.TlmEncIsMemWrites := by
  intro cfg status position current L Q sat h
  obtain ⟨tb, ht, hQ⟩ := tlmEnc_ok_cases h
  refine ⟨length_of_tlmEnc_ok h, tb, tempEncodes_of_tempEnc_ok ht, ?_⟩
  have hs : memWrite [] 0 3 status.toNat = some (u24Enc status) := memWrite_at_end rfl (leBytes_u24 status)
  have hp := memWrite_at_end (Q := u24Enc status) (off := 3) rfl (leBytes_le16 position)
  have hc := memWrite_at_end (Q := u24Enc status ++ le16Enc position) (off := 5) rfl (leBytes_le16 current)
  have htb := memWrite_at_end (Q := u24Enc status ++ le16Enc position ++ le16Enc current) (off := 7) rfl (leBytes_byte tb)
  rw [hs, Option.bind_some, hp, Option.bind_some, hc, Option.bind_some, htb, hQ]

/-! The five operations. -/

/-- With a request in flight, the state that an operation form answers, by the response it gives. -/
theorem exec_of_responseOf_eq {s : State} {p : Presented} {rest : List Presented} {i : Instr} {r : Response}
    (hs : s.pending = p :: rest) (hr : responseOf i p.cfg p.req = r) :
    exec i s = .next ⟨rest, s.given ++ [r]⟩ := by
  rw [exec_cons i hs, hr]

theorem encodeTlmResponse_ok {cfg : Cfg} {req : Request} {tb : Byte} {sat : Bool}
    (h : tempEnc cfg req.temp.toInt = .ok (tb, sat)) :
    encodeTlmResponse cfg req =
      .bytes (u24Enc req.status ++ le16Enc req.position ++ le16Enc req.current ++ [tb]) sat := by
  simp only [encodeTlmResponse, tlmEncRequest, logicalTemp, tlmEnc_ok h]

theorem encodeTlmResponse_error {cfg : Cfg} {req : Request} {code : ErrorCode}
    (h : tempEnc cfg req.temp.toInt = .error code) : encodeTlmResponse cfg req = .err code := by
  simp only [encodeTlmResponse, tlmEncRequest, logicalTemp, tlmEnc_error h, raise]

/-- Settles O16: the layout where `temp_enc` gives a byte, and its error where REJECT refuses. -/
theorem encodeTlmResult : Obligations.EncodeTlmResult := by
  intro s p rest hs
  refine ⟨fun hok => ?_, fun hL hp => exec_of_responseOf_eq hs (encodeTlmResponse_error (tempEnc_reject hp hL))⟩
  obtain ⟨tb, sat, h⟩ := exists_tempEnc_ok hok
  refine ⟨_, tb, sat, exec_of_responseOf_eq hs (encodeTlmResponse_ok h), tempEncodes_of_tempEnc_ok h, rfl, ?_⟩
  rw [responsePorts_bytes, dataPort_tlm]
  rfl

/-- Settles O17: the number of the two bytes is CMDV, so the data port is CMDV. -/
theorem encodeCmdResult : Obligations.EncodeCmdResult := by
  intro s p rest hs
  refine ⟨_, exec_cons .encodeCmd hs, rfl, ?_⟩
  rw [← dataPort_cmdEnc]
  rfl

/-- Settles O18: the response is the same for every request. -/
theorem encodeUnsResult : Obligations.EncodeUnsResult :=
  fun _ _ _ hs => ⟨_, exec_cons .encodeUns hs, rfl, rfl⟩

/-- The payload is no longer than `LEN` says (20_memory.md R41). -/
theorem payloadOf_length_le (req : Request) : (payloadOf req).length ≤ req.len.toNat := by
  rw [payloadOf_length]
  exact Nat.min_le_left _ _

/-- Settles O19: `cmd_dec` of the payload presented, by its length. -/
theorem decCmdResult : Obligations.DecCmdResult := by
  intro s p rest hs
  refine ⟨fun h => ?_, fun h => ?_⟩
  · exact ⟨_, exec_of_responseOf_eq hs (congrArg motorCmdResponse (cmdDec_payloadOf h)), rfl, rfl⟩
  · have hshort := cmdDec_short ((payloadOf_length_le p.req).trans_lt h)
    exact exec_of_responseOf_eq hs (congrArg motorCmdResponse hshort)

/-- Settles O20: `tlm_dec` of the payload presented, by its length. -/
theorem decTlmResult : Obligations.DecTlmResult := by
  intro s p rest hs
  refine ⟨fun h => ?_, fun h => ?_⟩
  · obtain ⟨t, hdec, hdata⟩ := tlmDec_payloadOf h
    refine ⟨_, t, exec_of_responseOf_eq hs (congrArg telemetryResponse hdec), rfl, hdata, ?_⟩
    obtain ⟨hstatus, hposition, hcurrent, -⟩ := hdata
    rw [← hstatus, ← hposition, ← hcurrent]
    rfl
  · have hshort := tlmDec_short ((payloadOf_length_le p.req).trans_lt h)
    exact exec_of_responseOf_eq hs (congrArg telemetryResponse hshort)

end Sys2Proof.Machine

/-! PROOFS. The Message Dispatcher: identifier validity in its two forms, what CLASSIFY, BUILD and CHECK_ID answer by the form
and the identifier, and the loopback from BUILD to CLASSIFY (42_dispatcher.md R131 to R142). -/

namespace Sys2Proof.Machine

/-! CLASSIFY. -/

/-- The dispatch table is consulted for the extended form, and for the standard one where it is routed (42_dispatcher.md
R132). -/
theorem not_unrouted_iff {cfg : Cfg} {ext : Form} :
    ¬ (ext = .standard ∧ cfg.stdRoute = false) ↔ ext = .extended ∨ cfg.stdRoute = true := by
  cases ext <;> simp

/-- An identifier that is not configured, or whose form is not routed, selects no message (42_dispatcher.md R132, R134). -/
theorem selectType_unclassifiable {cfg : Cfg} {ext : Form} {raw : U32}
    (h : (raw ≠ cfg.cmdId ∧ raw ≠ cfg.tlmId) ∨ (ext = .standard ∧ cfg.stdRoute = false)) :
    selectType cfg ext raw = .noType := by
  by_cases hstd : ext = .standard ∧ cfg.stdRoute = false
  · obtain ⟨rfl, hroute⟩ := hstd
    exact selectType_unrouted hroute
  · obtain ⟨hcmd, htlm⟩ := h.resolve_right hstd
    rw [selectType_routed (not_unrouted_iff.mp hstd), if_neg hcmd, if_neg htlm]

theorem classifyResponse_unclassifiable {ext : Form} {cfg : Cfg} {req : Request}
    (h : (req.id ≠ cfg.cmdId ∧ req.id ≠ cfg.tlmId) ∨ (ext = .standard ∧ cfg.stdRoute = false)) :
    classifyResponse ext cfg req = .msg .unsupported := by
  rw [classifyResponse, selectType_unclassifiable h]

/-- On the command identifier CLASSIFY answers as DEC_CMD does (42_dispatcher.md R131, R133). -/
theorem classifyResponse_cmdId {ext : Form} {cfg : Cfg} {req : Request} (hroute : ext = .extended ∨ cfg.stdRoute = true)
    (hcmd : req.id = cfg.cmdId) : classifyResponse ext cfg req = decCmdResponse cfg req := by
  rw [classifyResponse, selectType_routed hroute, if_pos hcmd, decCmdResponse]

/-- On the telemetry identifier, tested second, CLASSIFY answers as DEC_TLM does (42_dispatcher.md R131, R133). -/
theorem classifyResponse_tlmId {ext : Form} {cfg : Cfg} {req : Request} (hroute : ext = .extended ∨ cfg.stdRoute = true)
    (hcmd : req.id ≠ cfg.cmdId) (htlm : req.id = cfg.tlmId) :
    classifyResponse ext cfg req = decTlmResponse cfg req := by
  rw [classifyResponse, selectType_routed hroute, if_neg hcmd, if_pos htlm, decTlmResponse]

theorem decCmdResponse_short {cfg : Cfg} {req : Request} (h : req.len.toNat < 2) :
    decCmdResponse cfg req = .err .eLength :=
  congrArg motorCmdResponse (cmdDec_short ((payloadOf_length_le req).trans_lt h))

theorem decCmdResponse_long {cfg : Cfg} {req : Request} (h : 2 ≤ req.len.toNat) :
    decCmdResponse cfg req = .msg (.motorCmd ⟨req.data.extractLsb' 0 16⟩) :=
  congrArg motorCmdResponse (cmdDec_payloadOf h)

theorem decTlmResponse_short {cfg : Cfg} {req : Request} (h : req.len.toNat < 8) :
    decTlmResponse cfg req = .err .eLength :=
  congrArg telemetryResponse (tlmDec_short ((payloadOf_length_le req).trans_lt h))

theorem decTlmResponse_long {cfg : Cfg} {req : Request} (h : 8 ≤ req.len.toNat) :
    ∃ t, decTlmResponse cfg req = .msg (.telemetry t) ∧ TelemetryOfData t req.data := by
  obtain ⟨t, hdec, hdata⟩ := tlmDec_payloadOf h
  exact ⟨t, congrArg telemetryResponse hdec, hdata⟩

/-- Settles O30: the branches of the dispatch table in its order, and each decoder by its length. -/
theorem classifyResult : Obligations.ClassifyResult := by
  intro s p rest ext hs
  refine ⟨classifyResponse ext p.cfg p.req, exec_cons (.classify ext) hs, ?_⟩
  split_ifs with hstd hcmd h2 htlm h8
  · exact classifyResponse_unclassifiable (.inr hstd)
  · rw [classifyResponse_cmdId (not_unrouted_iff.mp hstd) hcmd, decCmdResponse_short h2]
  · rw [classifyResponse_cmdId (not_unrouted_iff.mp hstd) hcmd, decCmdResponse_long (not_lt.mp h2)]
  · rw [classifyResponse_tlmId (not_unrouted_iff.mp hstd) hcmd htlm, decTlmResponse_short h8]
  · rw [classifyResponse_tlmId (not_unrouted_iff.mp hstd) hcmd htlm]
    exact decTlmResponse_long (not_lt.mp h8)
  · exact classifyResponse_unclassifiable (.inl ⟨hcmd, htlm⟩)

/-- Settles O31: no message is selected, so neither decoder looks at the payload. -/
theorem unknownIdentifierUnsupported : Obligations.UnknownIdentifierUnsupported :=
  fun _ _ _ _ hs h => ⟨_, exec_of_responseOf_eq hs (classifyResponse_unclassifiable h), rfl, rfl, rfl⟩

/-- Settles O32: an identifier above both configured ones is neither of them. -/
theorem overwideIdentifierUnsupported : Obligations.OverwideIdentifierUnsupported := by
  intro s p rest ext hs hcmd htlm hid
  have hneCmd : p.req.id ≠ p.cfg.cmdId := ne_of_apply_ne BitVec.toNat (hcmd.trans_lt hid).ne'
  have hneTlm : p.req.id ≠ p.cfg.tlmId := ne_of_apply_ne BitVec.toNat (htlm.trans_lt hid).ne'
  exact exec_of_responseOf_eq hs (classifyResponse_unclassifiable (.inl ⟨hneCmd, hneTlm⟩))

/-! Identifier validity. -/

/-- An identifier is valid when the bits above its form's are 0 (42_dispatcher.md R140, 30_encoding.md R76). -/
theorem idValid_iff_bits {ext : Form} {raw : U32} : idValid ext raw = true ↔
    (ext = .extended ∧ raw.extractLsb' 29 3 = 0) ∨ (ext = .standard ∧ raw.extractLsb' 11 21 = 0) := by
  rw [← identWf_eq_idValid]
  cases ext <;> simp [identWf]

/-- The three operations that test the identifier answer E_ID_RANGE before anything else (42_dispatcher.md R140). -/
theorem responseOf_of_not_fits {i : Instr} {ext : Form} {cfg : Cfg} {req : Request}
    (hi : i = .buildTlm ext ∨ i = .buildCmd ext ∨ i = .checkId ext) (h : ¬ FitsForm ext req.id) :
    responseOf i cfg req = .err .eIdRange := by
  have hv : ¬ idValid ext req.id = true := mt idValid_iff_fits.mp h
  rcases hi with rfl | rfl | rfl <;> exact if_neg hv

/-- Settles O33: one test of the identifier, by limit and by bits, comes first in the three operations. -/
theorem identifierValidity : Obligations.IdentifierValidity := by
  refine ⟨fun ext raw => ⟨idValid_iff_fits, idValid_iff_bits⟩, fun s p rest ext hs hv => ?_⟩
  have h : ¬ FitsForm ext p.req.id := mt idValid_iff_fits.mpr (Bool.eq_false_iff.mp hv)
  exact ⟨exec_of_responseOf_eq hs (responseOf_of_not_fits (.inl rfl) h),
    exec_of_responseOf_eq hs (responseOf_of_not_fits (.inr (.inl rfl)) h),
    exec_of_responseOf_eq hs (responseOf_of_not_fits (.inr (.inr rfl)) h)⟩

/-! BUILD and CHECK_ID. -/

/-- A frame on the response ports (30_encoding.md R73). -/
theorem responsePorts_frame (ext : Form) (raw : U32) (q : Payload) (sat : Bool) :
    responsePorts (.frame ext raw q sat) =
      { zeroPorts with sat := BitVec.ofBool sat, rExt := extWire ext, rId := raw, rLen := lenPort q,
                       rData := dataPort q } := rfl

theorem buildTlmResponse_ok {ext : Form} {cfg : Cfg} {req : Request} {q : Payload} {sat : Bool}
    (hid : FitsForm ext req.id) (h : tlmEncRequest cfg req = .ok (q, sat)) :
    buildTlmResponse ext cfg req = .frame ext req.id q sat := by
  rw [buildTlmResponse, if_pos (idValid_iff_fits.mpr hid), h]

theorem buildTlmResponse_error {ext : Form} {cfg : Cfg} {req : Request} {code : ErrorCode}
    (hid : FitsForm ext req.id) (h : tlmEncRequest cfg req = .error code) :
    buildTlmResponse ext cfg req = .err code := by
  rw [buildTlmResponse, if_pos (idValid_iff_fits.mpr hid), h]
  rfl

theorem buildCmdResponse_of_fits {ext : Form} (cfg : Cfg) {req : Request} (hid : FitsForm ext req.id) :
    buildCmdResponse ext cfg req = .frame ext req.id (cmdEnc req.cmdv) false :=
  if_pos (idValid_iff_fits.mpr hid)

theorem checkIdResponse_of_fits {ext : Form} (cfg : Cfg) {req : Request} (hid : FitsForm ext req.id) :
    checkIdResponse ext cfg req = .idOk ext req.id :=
  if_pos (idValid_iff_fits.mpr hid)

/-- Settles O34: the identifier first, then `temp_enc` gives the last byte of the layout or is refused under REJECT. -/
theorem buildTlmResult : Obligations.BuildTlmResult := by
  intro s p rest ext hs
  refine ⟨fun hid hok => ?_, fun hid => exec_of_responseOf_eq hs (responseOf_of_not_fits (.inl rfl) hid),
    fun hid hL hp => exec_of_responseOf_eq hs (buildTlmResponse_error hid (tlmEnc_error (tempEnc_reject hp hL)))⟩
  obtain ⟨tb, sat, h⟩ := exists_tempEnc_ok hok
  refine ⟨_, tb, sat, exec_of_responseOf_eq hs (buildTlmResponse_ok hid (tlmEnc_ok h)), tempEncodes_of_tempEnc_ok h,
    rfl, ?_⟩
  rw [responsePorts_frame, dataPort_tlm]
  rfl

/-- Settles O35: the identifier first; the number of the two bytes is CMDV, so the data port is CMDV. -/
theorem buildCmdResult : Obligations.BuildCmdResult := by
  intro s p rest ext hs
  refine ⟨fun hid => ?_, fun hid => exec_of_responseOf_eq hs (responseOf_of_not_fits (.inr (.inl rfl)) hid)⟩
  refine ⟨_, exec_of_responseOf_eq hs (buildCmdResponse_of_fits p.cfg hid), rfl, ?_⟩
  rw [responsePorts_frame, dataPort_cmdEnc]
  rfl

/-- Settles O36: the response is the same for every form and request. -/
theorem buildUnsResult : Obligations.BuildUnsResult :=
  fun _ _ _ ext hs => ⟨_, exec_cons (.buildUns ext) hs, rfl, rfl⟩

/-- Settles O37: the identifier is given back when it fits its form. -/
theorem checkIdResult : Obligations.CheckIdResult :=
  fun _ p _ _ hs => ⟨fun hid => ⟨_, exec_of_responseOf_eq hs (checkIdResponse_of_fits p.cfg hid), rfl, rfl⟩,
    fun hid => exec_of_responseOf_eq hs (responseOf_of_not_fits (.inr (.inr rfl)) hid)⟩

/-! The loopback. -/

/-- A request that takes LEN and DATA from the ports of a frame has the frame's payload (20_memory.md R41). -/
theorem payloadOf_of_frame {req : Request} {r : Response} {ext : Form} {raw : U32} {Q : Payload} {sat : Bool}
    (hr : r = .frame ext raw Q sat) (hQ : Q.length ≤ 8) (hlen : req.len = (responsePorts r).rLen)
    (hdata : req.data = (responsePorts r).rData) : payloadOf req = Q := by
  subst hr
  exact payloadOf_of_ports hQ hlen hdata

/-- Settles O38: the frame's payload comes back whole, the identifier selects the decoder, and the decoder undoes the
encoder. -/
theorem loopback : Obligations.Loopback := by
  intro cfg hcmd htlm hne
  refine ⟨fun build hd hid => ?_, fun build hd hid hlo hhi => ?_, fun build ext raw Q sat _ hc ht inbound hd hid => ?_⟩
  · have hframe : block cfg build = .frame .extended cfg.cmdId (cmdEnc build.cmdv) false := by
      rw [block_instr hd, ← hid]
      exact buildCmdResponse_of_fits cfg (.inl ⟨rfl, hid ▸ hcmd⟩)
    refine ⟨_, hframe, fun inbound hd' hid' hlen hdata => ?_⟩
    have hpay := payloadOf_of_frame hframe (by decide : 2 ≤ 8) hlen hdata
    rw [block_instr hd', responseOf, classifyResponse_cmdId (.inl rfl) hid', decCmdResponse, hpay, cmdDec_cmdEnc,
      motorCmdResponse]
  · obtain ⟨Q, henc, hdec⟩ :=
      exists_tlmEnc_inRange cfg ⟨build.status, build.position, build.current, build.temp⟩ hlo hhi
    have hframe : block cfg build = .frame .extended cfg.tlmId Q false := by
      rw [block_instr hd, ← hid]
      exact buildTlmResponse_ok (.inl ⟨rfl, hid ▸ htlm⟩) henc
    refine ⟨Q, hframe, fun inbound hd' hid' hlen hdata => ?_⟩
    have hpay := payloadOf_of_frame hframe (length_of_tlmEnc_ok henc).le hlen hdata
    rw [block_instr hd', responseOf, classifyResponse_tlmId (.inl rfl) (hid' ▸ hne.symm) hid', decTlmResponse, hpay, hdec,
      telemetryResponse]
  · subst hid
    rw [block_instr hd]
    exact classifyResponse_unclassifiable (.inl ⟨hc, ht⟩)

end Sys2Proof.Machine

/-! PROOFS. Errors and the order of the tests: which condition decides a response, the frame of an operation, and runs with a
failed request in them (60_exceptions.md R150 to R159). -/

namespace Sys2Proof.Machine

/-! The state: idle, the frame, and no stop. -/

/-- With no request in flight an operation changes nothing (log entry 4). -/
theorem exec_nil {s : State} (i : Instr) (h : s.pending = []) : exec i s = .next s := by
  rw [exec_eq_answer, answer_nil h]

/-- Settles O1: nothing is fetched, and nothing is answered. -/
theorem nothingHappensBetweenRequests : Obligations.NothingHappensBetweenRequests :=
  fun _ h => ⟨step_nil h, fun i => exec_nil i h⟩

/-- Settles O46: every step answers, and an operation answers with a request in flight and without one. -/
theorem neverStops : Obligations.NeverStops := by
  refine fun s => ⟨⟨_, step_eq_answered s⟩, fun i => ?_⟩
  rcases hs : s.pending with _ | ⟨p, rest⟩
  · exact ⟨_, exec_nil i hs⟩
  · exact ⟨_, exec_cons i hs⟩

/-- Settles O44: every operation form is an answer, and an answer either changes nothing or moves one request to one
response. -/
theorem execFrame : Obligations.ExecFrame := by
  intro i s t h
  rw [exec_eq_answer] at h
  rcases answer_cases h with ⟨hs, rfl⟩ | ⟨p, rest, hs, rfl⟩
  · simp [hs]
  · simp [hs]

/-- A run that answers every request in flight gives each the response of `block` (70_reset_and_hazards.md R181). -/
theorem runSteps_all (ps : List Presented) (g : List Response) :
    runSteps ps.length ⟨ps, g⟩ = .next ⟨[], g ++ ps.map blockOf⟩ := by
  rw [runSteps_eq_answered, State.answered, List.drop_length, List.take_length]
  rfl

/-- Settles O51: the responses of a run are those of its requests, one by one. -/
theorem errorsLeaveOthersUnaffected : Obligations.ErrorsLeaveOthersUnaffected := by
  intro before after bad g _
  refine ⟨before.map blockOf, after.map blockOf, List.length_map .., List.length_map .., ?_, ?_⟩
  · simpa using runSteps_all (before ++ after) g
  · have hlen : before.length + 1 + after.length = (before ++ bad :: after).length := by
      simp only [List.length_append, List.length_cons]
      omega
    rw [hlen, runSteps_all]
    simp [blockOf]

/-! The conditions that decide a response. -/

/-- The six tests that are made of a request before its operation's own result (60_exceptions.md R153). -/
inductive Condition where
  | illegalWord
  | unsupportedVariant
  | badIdentifier
  | noType
  | shortPayload
  | tempRefused

/-- The response that a test gives when it is the first to fire (60_exceptions.md R153). -/
def Condition.response : Condition → Response
  | .illegalWord => .err .eIllegal
  | .unsupportedVariant => .noFrame
  | .badIdentifier => .err .eIdRange
  | .noType => .msg .unsupported
  | .shortPayload => .err .eLength
  | .tempRefused => .err .eTempRange

/-- The test is the first to fire for a request whose command word decodes to `d` (60_exceptions.md R151, R153). -/
def Condition.Decides (d : Decoded) (cfg : Cfg) (req : Request) : Condition → Prop
  | .illegalWord => ∃ why, d = .illegal why
  | .unsupportedVariant => d = .instr .encodeUns ∨ ∃ ext, d = .instr (.buildUns ext)
  | .badIdentifier => ∃ ext, (d = .instr (.buildTlm ext) ∨ d = .instr (.buildCmd ext) ∨ d = .instr (.checkId ext)) ∧
      ¬ FitsForm ext req.id
  | .noType => ∃ ext, d = .instr (.classify ext) ∧
      ((ext = .standard ∧ cfg.stdRoute = false) ∨ (req.id ≠ cfg.cmdId ∧ req.id ≠ cfg.tlmId))
  | .shortPayload => (d = .instr .decCmd ∧ req.len.toNat < 2) ∨ (d = .instr .decTlm ∧ req.len.toNat < 8) ∨
      ∃ ext, d = .instr (.classify ext) ∧ (ext = .extended ∨ cfg.stdRoute = true) ∧
        ((req.id = cfg.cmdId ∧ req.len.toNat < 2) ∨ (req.id ≠ cfg.cmdId ∧ req.id = cfg.tlmId ∧ req.len.toNat < 8))
  | .tempRefused => OutOfRange req.temp.toInt ∧ cfg.tempPolicy = .reject ∧
      (d = .instr .encTemp ∨ d = .instr .encodeTlm ∨ ∃ ext, d = .instr (.buildTlm ext) ∧ FitsForm ext req.id)

/-- The result of an operation that no test stops: no error, no NoFrame, not Unsupported (60_exceptions.md R152, R153). -/
def Ordinary (r : Response) : Prop := isError r = false ∧ r ≠ .noFrame ∧ r ≠ .msg .unsupported

theorem Ordinary.ne_response {r : Response} (h : Ordinary r) (c : Condition) : r ≠ c.response := by
  obtain ⟨herr, hnone, huns⟩ := h
  cases c with
  | unsupportedVariant => exact hnone
  | noType => exact huns
  | illegalWord | badIdentifier | shortPayload | tempRefused =>
    rintro rfl
    cases herr

/-- Different tests give different responses. -/
theorem Condition.response_injective : Function.Injective Condition.response := by
  intro a b h
  cases a <;> cases b <;> cases h <;> rfl

/-- The first test to fire gives the response. -/
theorem block_of_decides {cfg : Cfg} {req : Request} {c : Condition} (h : c.Decides (decode req.cw) cfg req) :
    block cfg req = c.response := by
  cases c with
  | illegalWord =>
    obtain ⟨why, hd⟩ := h
    exact block_illegal hd
  | unsupportedVariant => obtain hd | ⟨ext, hd⟩ := h <;> exact block_instr hd
  | badIdentifier =>
    obtain ⟨ext, hd | hd | hd, hid⟩ := h <;> rw [block_instr hd]
    · exact responseOf_of_not_fits (.inl rfl) hid
    · exact responseOf_of_not_fits (.inr (.inl rfl)) hid
    · exact responseOf_of_not_fits (.inr (.inr rfl)) hid
  | noType =>
    obtain ⟨ext, hd, hno⟩ := h
    exact (block_instr hd).trans (classifyResponse_unclassifiable hno.symm)
  | shortPayload =>
    obtain ⟨hd, h2⟩ | ⟨hd, h8⟩ | ⟨ext, hd, hroute, ⟨hcmd, h2⟩ | ⟨hcmd, htlm, h8⟩⟩ := h <;> rw [block_instr hd]
    · exact decCmdResponse_short (cfg := cfg) h2
    · exact decTlmResponse_short (cfg := cfg) h8
    · exact (classifyResponse_cmdId hroute hcmd).trans (decCmdResponse_short h2)
    · exact (classifyResponse_tlmId hroute hcmd htlm).trans (decTlmResponse_short h8)
  | tempRefused =>
    obtain ⟨hL, hp, hd | hd | ⟨ext, hd, hid⟩⟩ := h <;> rw [block_instr hd]
    · exact encTempResponse_error (tempEnc_reject hp hL)
    · exact encodeTlmResponse_error (tempEnc_reject hp hL)
    · exact buildTlmResponse_error hid (tlmEnc_error (tempEnc_reject hp hL))

theorem ordinary_decCmdResponse {cfg : Cfg} {req : Request} (h : ¬ req.len.toNat < 2) :
    Ordinary (decCmdResponse cfg req) := by
  rw [decCmdResponse_long (not_lt.mp h)]
  exact ⟨rfl, nofun, nofun⟩

theorem ordinary_decTlmResponse {cfg : Cfg} {req : Request} (h : ¬ req.len.toNat < 8) :
    Ordinary (decTlmResponse cfg req) := by
  obtain ⟨t, ht, -⟩ := decTlmResponse_long (cfg := cfg) (not_lt.mp h)
  rw [ht]
  exact ⟨rfl, nofun, nofun⟩

/-- CLASSIFY selects no message, or answers as the decoder that it selects (42_dispatcher.md R131 to R134). -/
theorem decides_or_ordinary_classifyResponse (ext : Form) (cfg : Cfg) (req : Request) :
    (∃ c : Condition, c.Decides (.instr (.classify ext)) cfg req) ∨ Ordinary (classifyResponse ext cfg req) := by
  by_cases hstd : ext = .standard ∧ cfg.stdRoute = false
  · exact .inl ⟨.noType, ext, rfl, .inl hstd⟩
  have hroute := not_unrouted_iff.mp hstd
  by_cases hcmd : req.id = cfg.cmdId
  · by_cases h : req.len.toNat < 2
    · exact .inl ⟨.shortPayload, .inr (.inr ⟨ext, rfl, hroute, .inl ⟨hcmd, h⟩⟩)⟩
    · rw [classifyResponse_cmdId hroute hcmd]
      exact .inr (ordinary_decCmdResponse h)
  by_cases htlm : req.id = cfg.tlmId
  · by_cases h : req.len.toNat < 8
    · exact .inl ⟨.shortPayload, .inr (.inr ⟨ext, rfl, hroute, .inr ⟨hcmd, htlm, h⟩⟩)⟩
    · rw [classifyResponse_tlmId hroute hcmd htlm]
      exact .inr (ordinary_decTlmResponse h)
  · exact .inl ⟨.noType, ext, rfl, .inr ⟨hcmd, htlm⟩⟩

/-- Where no test of an operation fires, its result is ordinary. -/
theorem decides_or_ordinary_responseOf (i : Instr) (cfg : Cfg) (req : Request) :
    (∃ c : Condition, c.Decides (.instr i) cfg req) ∨ Ordinary (responseOf i cfg req) := by
  cases i with
  | encU24 | decU24 | decTemp | encodeCmd => exact .inr ⟨rfl, nofun, nofun⟩
  | encodeUns => exact .inl ⟨.unsupportedVariant, .inl rfl⟩
  | buildUns ext => exact .inl ⟨.unsupportedVariant, .inr ⟨ext, rfl⟩⟩
  | encTemp =>
    by_cases h : OutOfRange req.temp.toInt ∧ cfg.tempPolicy = .reject
    · exact .inl ⟨.tempRefused, h.1, h.2, .inl rfl⟩
    · obtain ⟨tb, sat, ht⟩ := exists_tempEnc_ok h
      rw [responseOf, encTempResponse_ok ht]
      exact .inr ⟨rfl, nofun, nofun⟩
  | encodeTlm =>
    by_cases h : OutOfRange req.temp.toInt ∧ cfg.tempPolicy = .reject
    · exact .inl ⟨.tempRefused, h.1, h.2, .inr (.inl rfl)⟩
    · obtain ⟨tb, sat, ht⟩ := exists_tempEnc_ok h
      rw [responseOf, encodeTlmResponse_ok ht]
      exact .inr ⟨rfl, nofun, nofun⟩
  | decCmd =>
    by_cases h : req.len.toNat < 2
    · exact .inl ⟨.shortPayload, .inl ⟨rfl, h⟩⟩
    · exact .inr (ordinary_decCmdResponse (cfg := cfg) h)
  | decTlm =>
    by_cases h : req.len.toNat < 8
    · exact .inl ⟨.shortPayload, .inr (.inl ⟨rfl, h⟩)⟩
    · exact .inr (ordinary_decTlmResponse (cfg := cfg) h)
  | classify ext => exact decides_or_ordinary_classifyResponse ext cfg req
  | buildTlm ext =>
    by_cases hid : FitsForm ext req.id
    · by_cases h : OutOfRange req.temp.toInt ∧ cfg.tempPolicy = .reject
      · exact .inl ⟨.tempRefused, h.1, h.2, .inr (.inr ⟨ext, rfl, hid⟩)⟩
      · obtain ⟨tb, sat, ht⟩ := exists_tempEnc_ok h
        rw [responseOf, buildTlmResponse_ok hid (tlmEnc_ok ht)]
        exact .inr ⟨rfl, nofun, nofun⟩
    · exact .inl ⟨.badIdentifier, ext, .inl rfl, hid⟩
  | buildCmd ext =>
    by_cases hid : FitsForm ext req.id
    · rw [responseOf, buildCmdResponse_of_fits cfg hid]
      exact .inr ⟨rfl, nofun, nofun⟩
    · exact .inl ⟨.badIdentifier, ext, .inr (.inl rfl), hid⟩
  | checkId ext =>
    by_cases hid : FitsForm ext req.id
    · rw [responseOf, checkIdResponse_of_fits cfg hid]
      exact .inr ⟨rfl, nofun, nofun⟩
    · exact .inl ⟨.badIdentifier, ext, .inr (.inr rfl), hid⟩

/-- A request is decided by a test, or has the ordinary result of its operation (60_exceptions.md R153). -/
theorem decides_or_ordinary (cfg : Cfg) (req : Request) :
    (∃ c : Condition, c.Decides (decode req.cw) cfg req) ∨ Ordinary (block cfg req) := by
  rcases hd : decode req.cw with i | why
  · rw [block_instr hd]
    exact decides_or_ordinary_responseOf i cfg req
  · exact .inl ⟨.illegalWord, why, rfl⟩

/-- The response of a test is given exactly where that test is the first to fire (60_exceptions.md R151, R153). -/
theorem block_eq_response_iff (cfg : Cfg) (req : Request) (c : Condition) :
    block cfg req = c.response ↔ c.Decides (decode req.cw) cfg req := by
  refine ⟨fun h => ?_, block_of_decides⟩
  rcases decides_or_ordinary cfg req with ⟨c', hc⟩ | hord
  · rwa [← Condition.response_injective ((block_of_decides hc).symm.trans h)]
  · exact absurd h (hord.ne_response c)

/-- Settles O41: each error code is the response of one test. -/
theorem errorCauses : Obligations.ErrorCauses :=
  fun _ p _ hs => ⟨_, step_cons hs, block_eq_response_iff p.cfg p.req .illegalWord,
    block_eq_response_iff p.cfg p.req .badIdentifier, block_eq_response_iff p.cfg p.req .tempRefused,
    block_eq_response_iff p.cfg p.req .shortPayload⟩

/-! The tests from the bits of the command word. -/

/-- The fields `op`, `mtag` and `ext` of a command word select the operation (30_encoding.md R62, R63). -/
def HasFields (op mtag : Nat) (ext : Form) : Instr → Prop
  | .encU24 => op = 0
  | .decU24 => op = 1
  | .encTemp => op = 2
  | .decTemp => op = 3
  | .encodeTlm => op = 4 ∧ mtag = 0
  | .encodeCmd => op = 4 ∧ mtag = 1
  | .encodeUns => op = 4 ∧ mtag = 2
  | .decCmd => op = 5
  | .decTlm => op = 6
  | .classify e => op = 7 ∧ e = ext
  | .buildTlm e => op = 8 ∧ mtag = 0 ∧ e = ext
  | .buildCmd e => op = 8 ∧ mtag = 1 ∧ e = ext
  | .buildUns e => op = 8 ∧ mtag = 2 ∧ e = ext
  | .checkId e => op = 9 ∧ e = ext

theorem hasFields_of_decode {cw : CommandWord} {i : Instr} (h : decode cw = .instr i) :
    HasFields (cwOp cw).toNat (cwMtag cw).toNat (cwExt cw) i := by
  unfold decode at h
  split at h
  case h_5 hop =>
    unfold decodeEncode at h
    split at h <;> cases h <;> exact ⟨hop, ‹_›⟩
  case h_9 hop =>
    unfold decodeBuild at h
    split at h <;> cases h <;> exact ⟨hop, ‹_›, rfl⟩
  case h_8 hop | h_10 hop =>
    cases h
    exact ⟨hop, rfl⟩
  case h_11 => cases h
  all_goals
    cases h
    assumption

/-- The decoder reads an operation exactly off the fields that select it (30_encoding.md R62, R80). -/
theorem decode_eq_instr_iff {cw : CommandWord} {i : Instr} :
    decode cw = .instr i ↔ HasFields (cwOp cw).toNat (cwMtag cw).toNat (cwExt cw) i := by
  refine ⟨hasFields_of_decode, fun h => ?_⟩
  cases i <;> simp only [HasFields] at h <;> simp [decode, decodeEncode, decodeBuild, h]

/-- Bit 6 of the command word is its form (30_encoding.md R63, R65). -/
theorem cwExt_eq_extended_iff (cw : CommandWord) : cwExt cw = .extended ↔ cw.toNat / 64 = 1 := by
  have hbit : cw.extractLsb' 6 1 = 1#1 ↔ cw.toNat / 64 = 1 := by
    have := cw.isLt
    rw [← BitVec.toNat_inj]
    simp only [BitVec.extractLsb'_toNat, Nat.shiftRight_eq_div_pow, BitVec.toNat_ofNat]
    omega
  simp [cwExt, Form.ofBit, hbit]

theorem Form.eq_of_extended_iff {a b : Form} (h : a = .extended ↔ b = .extended) : a = b := by
  cases a <;> cases b <;> simp_all

/-- Settles O42: in each branch the test it names is the first to fire, and in the last none fires. -/
theorem priorityOfConditions : Obligations.PriorityOfConditions := by
  intro s p rest op mtag ext hs hop hmtag hext
  refine ⟨_, step_cons hs, ?_⟩
  have hform : ext = cwExt p.req.cw := Form.eq_of_extended_iff (hext.trans (cwExt_eq_extended_iff p.req.cw).symm)
  have hdec (i : Instr) : decode p.req.cw = .instr i ↔ HasFields op mtag ext i := by
    rw [decode_eq_instr_iff, cwOp_toNat, cwMtag_toNat, hop, hmtag, hform]
  have hill : (∃ why, decode p.req.cw = .illegal why) ↔ 10 ≤ op ∨ ((op = 4 ∨ op = 8) ∧ mtag = 3) := by
    rw [decode_illegal_iff, cwOp_toNat, cwMtag_toNat, hop, hmtag]
  have hmtag4 : mtag < 4 := by omega
  split_ifs with h1 h2 h3 h4 h5 h6
  · exact block_of_decides (c := .illegalWord) (hill.mpr h1)
  · obtain ⟨hop | hop, hm⟩ := h2
    · exact block_of_decides (c := .unsupportedVariant) (.inl ((hdec .encodeUns).mpr ⟨hop, hm⟩))
    · exact block_of_decides (c := .unsupportedVariant) (.inr ⟨ext, (hdec (.buildUns ext)).mpr ⟨hop, hm, rfl⟩⟩)
  · refine block_of_decides (c := .badIdentifier) ⟨ext, ?_, h3.2⟩
    simp only [hdec, HasFields, and_true]
    omega
  · exact block_of_decides (c := .noType) ⟨ext, (hdec (.classify ext)).mpr ⟨h4.1, rfl⟩, h4.2⟩
  · have hroute (hop : op = 7) : ext = .extended ∨ p.cfg.stdRoute = true :=
      not_unrouted_iff.mp fun hstd => h4 ⟨hop, .inl hstd⟩
    have htlm (hop : op = 7) (hcmd : p.req.id ≠ p.cfg.cmdId) : p.req.id = p.cfg.tlmId :=
      by_contra fun hne => h4 ⟨hop, .inr ⟨hcmd, hne⟩⟩
    refine block_of_decides (c := .shortPayload) ?_
    obtain ⟨hop | ⟨hop, hcmd⟩, hlen⟩ | ⟨hop | ⟨hop, hcmd⟩, hlen⟩ := h5
    · exact .inl ⟨(hdec .decCmd).mpr hop, hlen⟩
    · exact .inr (.inr ⟨ext, (hdec (.classify ext)).mpr ⟨hop, rfl⟩, hroute hop, .inl ⟨hcmd, hlen⟩⟩)
    · exact .inr (.inl ⟨(hdec .decTlm).mpr hop, hlen⟩)
    · exact .inr (.inr ⟨ext, (hdec (.classify ext)).mpr ⟨hop, rfl⟩, hroute hop, .inr ⟨hcmd, htlm hop hcmd, hlen⟩⟩)
  · obtain ⟨hop, hL, hp⟩ := h6
    refine block_of_decides (c := .tempRefused) ⟨hL, hp, ?_⟩
    obtain hop | ⟨hop | hop, hm⟩ := hop
    · exact .inl ((hdec .encTemp).mpr hop)
    · exact .inr (.inl ((hdec .encodeTlm).mpr ⟨hop, hm⟩))
    · exact .inr (.inr ⟨ext, (hdec (.buildTlm ext)).mpr ⟨hop, hm, rfl⟩, by_contra fun hid => h3 ⟨.inl hop, hid⟩⟩)
  · refine (decides_or_ordinary p.cfg p.req).resolve_left ?_
    rintro ⟨c, hc⟩
    cases c with
    | illegalWord => exact h1 (hill.mp hc)
    | unsupportedVariant | badIdentifier | noType | shortPayload | tempRefused =>
      simp only [Condition.Decides, hdec, HasFields] at hc
      grind

end Sys2Proof.Machine

/-! PROOFS. Runs and resets: the result of a run, the order of the responses, and the first request after a reset
(70_reset_and_hazards.md R170, R171, R177, R181). -/

namespace Sys2Proof.Machine

/-- Requests presented one after the other queue behind those in flight, in the order of their presentation
(70_reset_and_hazards.md R177). -/
theorem foldl_present (ps : List Presented) (s : State) :
    ps.foldl State.present s = ⟨s.pending ++ ps, s.given⟩ := by
  induction ps generalizing s with
  | nil => rw [List.foldl_nil, List.append_nil]
  | cons p ps ih => rw [List.foldl_cons, ih, State.present_pending, State.present_given, List.append_assoc,
      List.singleton_append]

/-- Steps with no request in flight change nothing (log entry 4). -/
theorem runSteps_nil {s : State} (h : s.pending = []) (k : Nat) : runSteps k s = .next s := by
  rw [runSteps_eq_answered]
  congr 1
  ext1 <;> simp [State.answered, h]

/-- Settles O47: a run of `k` steps is the state `answered k`, by induction on the steps in `runSteps_eq_answered`. -/
theorem runGivesTheResponses : Obligations.RunGivesTheResponses :=
  fun s k => runSteps_eq_answered k s

/-- Settles O48: the queue holds the requests in their order and the run answers them all; after a reset it is empty. -/
theorem responsesKeepRequestOrder : Obligations.ResponsesKeepRequestOrder := by
  refine ⟨fun s ps => ?_, fun s k => runSteps_nil (State.hostReset_pending s) k⟩
  rw [foldl_present, ← List.length_append]
  exact runSteps_all (s.pending ++ ps) s.given

/-- A request presented with none in flight is answered by the next step (70_reset_and_hazards.md R171). -/
theorem step_present_of_nil {s : State} (h : s.pending = []) (p : Presented) :
    step (s.present p) = .next ⟨[], s.given ++ [block p.cfg p.req]⟩ :=
  step_cons (by rw [State.present_pending, h, List.nil_append])

/-- Settles O54: no request is in flight after a host reset, nor in the reset state, so the first one presented is next. -/
theorem firstRequestAfterReset : Obligations.FirstRequestAfterReset :=
  ⟨fun s p => step_present_of_nil (State.hostReset_pending s) p, step_present_of_nil State.reset_pending⟩

end Sys2Proof.Machine
